-- ==== Sys2Proof/Word.lean ====
section
/-! DEFINITION. The two word types of the block: bytes of a frame and 16-bit values (R10). -/

namespace Sys2Proof

/-- A byte: 8 bits, bit 0 the least significant (R13). -/
abbrev Byte := BitVec 8

/-- A 16-bit value: a register address, a register count, a register value or a CRC (R10). -/
abbrev Word := BitVec 16

end Sys2Proof
end

