-- ==== Sys2Proof/Config.lean ====
section
/-! DEFINITION. The parameters of an instance of the block (R7, R8) and the free values: what the spec leaves
open, as constants without a body. -/

namespace Sys2Proof

/-- The synthesis parameters, fixed for the life of an instance. `Fin 128` is the admitted range
0 <= MAXREG <= 127 of R7 (U9: any other configuration is refused, here by having no value of this type); MAXBIND is
any natural number (R8). Assumption log 1 says why they ride in the state. -/
structure Config where
  maxReg  : Fin 128
  maxBind : Nat
deriving DecidableEq, Repr

/-- FREE VALUE. Byte number `n` of the bytes an operation leaves unspecified (R36, R180; assumption log 3). -/
opaque Config.freeByte : Nat → Byte

/-- FREE VALUE. Word number `n` of the 16-bit values an operation leaves unspecified (R36, R180; assumption log 3). -/
opaque Config.freeWord : Nat → Word

/-- FREE VALUE. Bit number `n` of the bits an operation leaves unspecified (R36, R180; assumption log 3). -/
opaque Config.freeBit : Nat → Bool

/-- FREE VALUE. Number `n` of the counters and indices an operation leaves unspecified (R36, R37, R180;
assumption log 3). -/
opaque Config.freeNat : Nat → Nat

/-- FREE VALUE (U2, R162). What draw `n` of a frame byte at or beyond the end of the frame gives, where the receive
buffer holds `stale`. The reference hardware is `fun _ stale => stale` (D17); nothing says so here. Assumption log 5. -/
opaque Config.staleByte : Nat → Byte → Byte

/-- FREE VALUE (U1, R152). What draw `n` of a data field after the failing one gives, where the value scratch holds
`stale`. The reference hardware is `fun _ stale => stale`; nothing says so here. Assumption log 4. -/
opaque Config.staleWord : Nat → Word → Word

end Sys2Proof
end

