-- ==== Sys2Proof/Syntax.lean ====
section
/-! DEFINITION. The syntax of the block: one constructor of `Instr` per row of spec/opcode_table.json, and the three
spaces in which an instruction is written down (R88, R92, R93): the ports, a received frame, a response frame. -/

namespace Sys2Proof

/-- The two exception codes the block emits (R89). -/
inductive ExcCode where
  | illegalFunction      -- 0x01
  | illegalDataAddress   -- 0x02
deriving DecidableEq, Repr

/-- The operations, request kinds and response formats of spec/opcode_table.json, in the table's order. -/
inductive Instr where
  /-- RHR, format REQ.R (R81, R150): station, register address, register count, and the bytes from index 6 to the end
  of the frame (ignored bytes and the CRC; in a 7-byte frame the CRC's low byte is the count's low byte, R138). -/
  | rhr (station : Byte) (addr count : Word) (rest : List Byte)
  /-- WMR, format REQ.W (R82, R160): station, register address, register count, and the bytes from index 6 to the end
  of the frame: byte_count, the values, the CRC. -/
  | wmr (station : Byte) (addr count : Word) (rest : List Byte)
  /-- ILLFN, format REQ.X (R83, R170): station, any other function code, and the bytes from index 2, never decoded. -/
  | illfn (station func : Byte) (rest : List Byte)
  /-- RSP.R (R84, R153): station and the register values, first register first. -/
  | rspR (station : Byte) (values : List Word)
  /-- RSP.W (R85, R164): station, and the address and count of the request. -/
  | rspW (station : Byte) (addr count : Word)
  /-- RSP.E (R86, R172): station, the function byte as sent (bit 7 set), the exception code. -/
  | rspE (station func : Byte) (code : ExcCode)
  /-- RESET (R180). -/
  | reset
  /-- CONFIG station (R181). -/
  | config (station : Byte)
  /-- REGISTER base, count, has_read, has_write (R182). -/
  | register (base count : Word) (hasRead hasWrite : Bool)
  /-- PROCESS (R130): the bytes of one delivery at the frame input, `last` being `rx_last` on the last of them (R41).
  A whole frame in one delivery with `last = true` is the operation as R130 writes it. -/
  | process (bytes : List Byte) (last : Bool)
  /-- CRC.INIT (R116). -/
  | crcInit
  /-- CRC.BYTE x (R117). -/
  | crcByte (x : Byte)
  /-- CRC.READ (R118). -/
  | crcRead
deriving DecidableEq, Repr

/-- The host and frame inputs sampled at one edge (R40, R41, R44, R45), at the transaction level of R11: the bytes of a
delivery come together. `strobes` is the vector of R93: bit 5 rst, bit 4 cfg_station_we, bit 3 cfg_reg_valid,
bit 2 rx_valid, bit 1 crc_init, bit 0 crc_en. -/
structure PortEdge where
  strobes     : BitVec 6
  cfgStation  : Byte
  cfgBase     : Word
  cfgCount    : Word
  cfgHasRead  : Bool
  cfgHasWrite : Bool
  rxData      : List Byte
  rxLast      : Bool
  crcDin      : Byte
deriving DecidableEq, Repr

/-- An instruction as it is written down: on the ports, as a received frame, or as a response frame. -/
inductive Code where
  | port     (e : PortEdge)
  | request  (frame : List Byte)
  | response (frame : List Byte)
deriving DecidableEq, Repr

/-- Why the decoder refuses a code, by name. -/
inductive Reject where
  /-- a received frame of fewer than 7 bytes (R132) -/
  | requestTooShort
  /-- a response frame of fewer than 5 bytes (R91) -/
  | responseTooShort
  /-- a response frame whose CRC residue is not 0 (R115) -/
  | responseBadCrc
  /-- a response frame whose function byte is neither 0x03 nor 0x10 and has bit 7 clear (R93) -/
  | responseUnknownFunction
  /-- a response frame whose length is not the one its format and byte_count give (R91) -/
  | responseWrongLength
  /-- an exception response whose code is neither 0x01 nor 0x02 (R89) -/
  | responseUnknownCode
deriving DecidableEq, Repr

end Sys2Proof
end

