-- ==== Sys2Proof/Machine/Operands.lean ====
section
/-! DEFINITION. Operand forms: byte order (R14, R58), the fields of a received frame (R87), the derived capacities (R9)
and the overwriting of a buffer from its first entry. -/

namespace Sys2Proof

/-- `be16(h, l) = h*256 + l`: the first byte is the more significant (R14). -/
def be16 (h l : Byte) : Word := h ++ l

/-- `le16(l, h) = h*256 + l`: the first byte is the less significant (R14). -/
def le16 (l h : Byte) : Word := h ++ l

/-- `lo(v) = v[7:0]` (R14). -/
def lo (v : Word) : Byte := v.extractLsb' 0 8

/-- `hi(v) = v[15:8]` (R14). -/
def hi (v : Word) : Byte := v.extractLsb' 8 8

/-- RXCAP = 2*MAXREG + 7 (R9). -/
def Config.rxcap (c : Config) : Nat := 2 * c.maxReg.val + 7

/-- TXCAP = max(2*MAXREG + 5, 8) (R9, C2). -/
def Config.txcap (c : Config) : Nat := max (2 * c.maxReg.val + 5) 8

/-- The least number of bits that holds every number from 0 to `n` (R20: "enough bits for 0..n"). -/
def bitsFor (n : Nat) : Nat := if n = 0 then 0 else n.log2 + 1

/-- The values of a read response, high byte first (R84, R153). -/
def valueBytes : List Word → List Byte
  | [] => []
  | v :: vs => hi v :: lo v :: valueBytes vs

/-- A run of bytes read as 16-bit values, high byte first (R58); a last odd byte is no value. -/
def bytesToWords : List Byte → List Word
  | h :: l :: bs => be16 h l :: bytesToWords bs
  | _ => []

/-- `buf` with its entries 0, 1, ... replaced by `vs`, entry by entry; nothing is written beyond its end. -/
def overwrite {α : Type} : List α → List α → List α
  | _ :: buf, v :: vs => v :: overwrite buf vs
  | buf, _ => buf

/-- The station byte of a frame, byte 0 (R80). -/
def frameStation (f : List Byte) : Byte := f.getD 0 0

/-- The function code of a frame, byte 1 (R80, R134). -/
def frameFunc (f : List Byte) : Byte := f.getD 1 0

/-- ADDR = be16(byte 2, byte 3) (R87, R136). -/
def frameAddr (f : List Byte) : Word := be16 (f.getD 2 0) (f.getD 3 0)

/-- COUNT = be16(byte 4, byte 5) (R87, R136). -/
def frameCount (f : List Byte) : Word := be16 (f.getD 4 0) (f.getD 5 0)

/-- The request kinds (R88). -/
inductive RequestKind where
  | rhr
  | wmr
  | illfn
deriving DecidableEq, Repr

/-- The function-code map (R88): 0x03, 0x10, and every other value. -/
def requestKind (func : Byte) : RequestKind :=
  if func = 0x03#8 then .rhr else if func = 0x10#8 then .wmr else .illfn

/-- The byte of an exception code (R89). -/
def ExcCode.byte : ExcCode → Byte
  | .illegalFunction => 0x01#8
  | .illegalDataAddress => 0x02#8

/-- The function byte of an exception response: `FUNC | 0x80` (R86, R87). -/
def excFunc (func : Byte) : Byte := func ||| 0x80#8

/-- The bytes of a read response before its CRC (R84, R153). The byte count is the 8-bit number 2*COUNT. -/
def readResponseBytes (station : Byte) (values : List Word) : List Byte :=
  station :: 0x03#8 :: BitVec.ofNat 8 (2 * values.length) :: valueBytes values

/-- The bytes of a write acknowledgement before its CRC (R85, R164). -/
def writeAckBytes (station : Byte) (addr count : Word) : List Byte :=
  [station, 0x10#8, hi addr, lo addr, hi count, lo count]

/-- The bytes of an exception response before its CRC (R86, R172); `func` is the byte as sent. -/
def exceptionBytes (station func : Byte) (code : ExcCode) : List Byte :=
  [station, func, code.byte]

end Sys2Proof
end

