-- ==== Sys2Proof/Machine/Crc.lean ====
section
/-! DEFINITION. The CRC Engine's functions (R110 to R115, R119): pure, they read and write no state. -/

namespace Sys2Proof

/-- One shift iteration (R111). -/
def crcBit (c : Word) (d : Bool) : Word :=
  if (c.getLsbD 0 ^^ d) then (c >>> 1) ^^^ 0xA001#16 else c >>> 1

/-- The update for one byte, least significant bit first (R112). -/
def crcByte (c : Word) (x : Byte) : Word :=
  (List.range 8).foldl (fun c k => crcBit c (x.getLsbD k)) c

/-- The update for a run of bytes, from a register value `c` (R121 (b)). -/
def crcFrom (c : Word) (bs : List Byte) : Word := bs.foldl crcByte c

/-- The checksum of a byte sequence (R114). -/
def crc16 (bs : List Byte) : Word := crcFrom 0xFFFF#16 bs

/-- The frame `m` terminated by its CRC, low byte first (R119; CRC.APPEND of R95). -/
def crcAppend (m : List Byte) : List Byte := m ++ [lo (crc16 m), hi (crc16 m)]

/-- The table form's entry `T[y] = crc_byte(0, y)` (R112). -/
def crcTable (y : Byte) : Word := crcByte 0x0000#16 y

end Sys2Proof
end

