-- ==== Sys2Proof/Machine/State.lean ====
section
/-! DEFINITION. The state of the block (R20), what surrounds it, the reasons a step can stop, and the reset state. -/

namespace Sys2Proof.Machine

/-- The values of the phase register PH (R29). -/
inductive Phase where
  | idle      -- IDLE: no transaction in progress
  | recv      -- RECV: frame bytes arriving
  | check     -- CHECK: length, station, CRC
  | decode    -- DECODE: function, address, count, count guard
  | matching  -- MATCH: binding search
  | rd        -- RD: read loop
  | wdec      -- WDEC: decode of the values
  | wr        -- WR: write loop
  | rrsp      -- RRSP: build the read response
  | wack      -- WACK: build the write acknowledgement
  | xrsp      -- XRSP: build the exception response
  | send      -- SEND: CRC append and hand-over
deriving DecidableEq, Repr

/-- One entry of the binding table (R23). -/
structure Binding where
  base : Word   -- BASE: the first address of the range
  cnt  : Word   -- CNT: the number of registers
  hr   : Bool   -- HR: a read accessor is present
  hw   : Bool   -- HW: a write accessor is present
deriving DecidableEq, Repr

/-- One move of the outside world (R6, R235), in the order in which the moves reach the block. -/
inductive Input where
  /-- one edge's host and frame inputs (R40, R41, R44, R45) -/
  | edge (e : PortEdge)
  /-- `acc_done` with `acc_ok` and `acc_rdata`: the accessor environment's answer to the outstanding call (R43) -/
  | answer (ok : Bool) (v : Word)
deriving DecidableEq, Repr

/-- What the outside world observes, one entry per event, in the notation of R94. -/
inductive Event where
  /-- `acc k R a -> ok v`: a completed read call (R53) -/
  | accRead (k : Nat) (a : Word) (ok : Bool) (v : Word)
  /-- `acc k W a v -> ok`: a completed write call (R54) -/
  | accWrite (k : Nat) (a v : Word) (ok : Bool)
  /-- `=> bytes`: one hand-over to the response sink (R175) -/
  | respond (bytes : List Byte)
  /-- `CRC.READ -> c`, with `crc_zero` (R118) -/
  | crcRead (c : Word) (z : Bool)
deriving DecidableEq, Repr

/-- The state of the block (R20), after it the parameters of the instance and the three fields that are the model's own:
the moves still to come, the events so far and the counter of the free values (assumption log 1, 3, 6, 11). -/
structure State where
  station : Byte           -- STATION (R21)
  nb      : Nat            -- NB (R22)
  binds   : List Binding   -- BIND, MAXBIND entries (R23)
  valbuf  : List Word      -- VALBUF, MAXREG entries (R25)
  rxbuf   : List Byte      -- RXBUF, RXCAP entries (R26)
  len     : Nat            -- LEN (R34)
  txbuf   : List Byte      -- TXBUF, TXCAP entries (R27)
  txlen   : Nat            -- TXLEN (R27)
  func    : Byte           -- FUNC (R28)
  addr    : Word           -- ADDR (R28)
  count   : Word           -- COUNT (R28)
  sel     : Nat            -- SEL (R28)
  idx     : Nat            -- IDX (R28)
  ph      : Phase          -- PH (R29)
  crcf    : Word           -- CRCF (R31)
  crch    : Word           -- CRCH (R32)
  cfg     : Config         -- MAXREG and MAXBIND (R7, R8): no step changes them
  inputs  : List Input     -- the outside world's moves still to come, next one first
  trace   : List Event     -- what the outside world has observed, first event first
  draws   : Nat            -- how many free values have been drawn
deriving DecidableEq, Repr

/-- Why the machine stops. -/
inductive Fault where
  /-- Raised by the step of a block that waits for an accessor's answer when no move is left: stuck (R231, U5), "the block
  makes no further step". SAFE: the hardware does nothing either. -/
  | accessorNeverAnswers
deriving DecidableEq, Repr

/-- Why an instruction has no meaning in a state. -/
inductive Refusal where
  /-- an instruction that has no meaning yet. SAFE. -/
  | notModelled (mnemonic : String)
  /-- Raised by PROCESS, CONFIG and REGISTER started while BUSY = 1 (R225, R226, R227, U4: "a model refuses such a run").
  SAFE: the spec defines no effect. -/
  | startedWhileBusy
  /-- Raised by RSP.R with more values than MAXREG: no response this instance can form (R9, R25, R137). SAFE: PROCESS
  never builds one. -/
  | responseExceedsBuffer
  /-- Raised by the step of a state that rests in DECODE with fewer than 7 bytes received, which no run reaches (R132).
  SAFE. -/
  | undecodable (r : Reject)
deriving DecidableEq, Repr

/-- The parameters of the reset state: MAXREG = 4, MAXBIND = 4 (DESIGN CHOICE, assumption log 1: both are open; these are
the ones of the configurations A, A2, B, C and W of spec/95_test_vectors.md). -/
def resetConfig : Config := { maxReg := 4, maxBind := 4 }

/-- The state right after reset of an instance with parameters `c`: PH, NB and CRCH as R36 gives them, every element it
leaves unspecified at zero (DESIGN CHOICE, unsafe, assumption log 2), no move pending, nothing observed. -/
def State.resetOf (c : Config) : State where
  station := 0
  nb := 0
  binds := List.replicate c.maxBind { base := 0, cnt := 0, hr := false, hw := false }
  valbuf := List.replicate c.maxReg.val 0
  rxbuf := List.replicate c.rxcap 0
  len := 0
  txbuf := List.replicate c.txcap 0
  txlen := 0
  func := 0
  addr := 0
  count := 0
  sel := 0
  idx := 0
  ph := .idle
  crcf := 0
  crch := 0xFFFF
  cfg := c
  inputs := []
  trace := []
  draws := 0

/-- The machine right after reset (R36, R220). -/
def State.reset : State := State.resetOf resetConfig

/-- The result of a step. -/
abbrev Result := Host.Outcome State Fault Refusal

end Sys2Proof.Machine
end

