-- ==== Sys2Proof/Machine/Flags.lean ====
section
/-! DEFINITION. The block's one status flag and its outputs, all functions of the state (R30, R42, R43, R45, R46). There
are no condition codes (R30). -/

namespace Sys2Proof.Machine

/-- BUSY = (PH != IDLE) (R30, R46). -/
def State.busy (s : State) : Bool := s.ph != .idle

/-- `crc_out`, always CRCH (R45). -/
def State.crcOut (s : State) : Word := s.crch

/-- `crc_zero`, always CRCH == 0 (R45, R118). -/
def State.crcZero (s : State) : Bool := s.crch == 0x0000#16

/-- The accessor address of the current index: `(ADDR + IDX) mod 65536` (R55). -/
def State.accAddr (s : State) : Word := s.addr + BitVec.ofNat 16 s.idx

/-- `acc_valid`: a call is outstanding (R43): the block rests in one of its two loops with a register still to do. -/
def State.waiting (s : State) : Bool := (s.ph == .rd || s.ph == .wr) && decide (s.idx < s.count.toNat)

/-- The accessor port's outputs (R43). -/
structure AccPort where
  valid : Bool
  write : Bool
  sel   : Nat
  addr  : Word
  wdata : Word
deriving DecidableEq, Repr

/-- What the accessor port carries (R43, R53, R54); `wdata` has a meaning when `write` is set. -/
def State.accPort (s : State) : AccPort :=
  { valid := s.waiting, write := s.ph == .wr, sel := s.sel, addr := s.accAddr, wdata := s.valbuf.getD s.idx 0 }

/-- The beats of the hand-over burst (R42): each byte with its `tx_last`. -/
def txBurst : List Byte → List (Byte × Bool)
  | [] => []
  | [b] => [(b, true)]
  | b :: c :: bs => (b, false) :: txBurst (c :: bs)

end Sys2Proof.Machine
end

