-- ==== Sys2Proof/Machine/Ops.lean ====
section
/-! DEFINITION. The operations the meanings share: reception, the end of a transaction, taking an exception, the response
path, the binding search and the two accessor loops. -/

namespace Sys2Proof.Machine

/-! ## The end of a transaction and the response path -/

/-- The return of PH to IDLE, which ends every transaction (R133, R143, R175, R199). Nothing is restored. -/
def endTransaction (s : State) : State := { s with ph := .idle }

/-- An observation added to the trace. -/
def observe (e : Event) (s : State) : State := { s with trace := s.trace ++ [e] }

/-- The encoders' common write: TXBUF[0], TXBUF[1], ... and TXLEN (R153, R164, R172), then PH <- SEND. -/
def buildTx (bs : List Byte) (s : State) : State :=
  { s with txbuf := overwrite s.txbuf bs, txlen := bs.length, ph := .send }

/-- SEND, first half (R174): the CRC over every byte built so far, low byte first; it uses CRCF. -/
def appendCrc (s : State) : State :=
  let c := crc16 (s.txbuf.take s.txlen)
  { s with crcf := c, txbuf := (s.txbuf.set s.txlen (lo c)).set (s.txlen + 1) (hi c), txlen := s.txlen + 2 }

/-- SEND, second half (R175): TXBUF[0 : TXLEN] goes to the response sink in one call, then PH <- IDLE. -/
def handOver (s : State) : State := endTransaction (observe (.respond (s.txbuf.take s.txlen)) s)

/-- SEND (R174, R175). -/
def sendPhase (s : State) : State := handOver (appendCrc s)

/-- A response built from its bytes and sent. -/
def emit (bs : List Byte) (s : State) : State := sendPhase (buildTx bs s)

/-- TAKING AN EXCEPTION (R171, R172, R198): the rest of the transaction is abandoned; XRSP builds STATION, FUNC | 0x80
and the code; the response path sends it and ends the transaction. Nothing is saved. -/
def raiseException (code : ExcCode) (s : State) : State :=
  emit (exceptionBytes s.station (excFunc s.func) code) { s with ph := .xrsp }

/-- The exception a block in XRSP is answering: `IllegalFunction` is raised exactly when FUNC is neither 0x03 nor 0x10
(R135, R191, R192). -/
def exceptionOf (func : Byte) : ExcCode :=
  match requestKind func with
  | .illfn => .illegalFunction
  | _ => .illegalDataAddress

/-- The outcome *dropped* (R133). -/
def dropFrame (s : State) : State := endTransaction s

/-! ## Reception (R131) -/

/-- The start of RECV: `LEN <- 0; CRCF <- 0xFFFF`. -/
def startReception (s : State) : State := { s with ph := .recv, len := 0, crcf := 0xFFFF#16 }

/-- One received byte: stored while LEN is below RXCAP, always checksummed, always counted up to RXCAP. -/
def receiveByte (s : State) (x : Byte) : State :=
  { s with rxbuf := if s.len < s.cfg.rxcap then s.rxbuf.set s.len x else s.rxbuf,
           crcf := crcByte s.crcf x,
           len := min (s.len + 1) s.cfg.rxcap }

/-- The bytes of a delivery, in wire order. -/
def receive (bs : List Byte) (s : State) : State := bs.foldl receiveByte s

/-- The received frame as far as it is stored: RXBUF[0 .. LEN-1] (R26, R34). -/
def State.frame (s : State) : List Byte := s.rxbuf.take s.len

/-- CHECK: the three framing tests (R132). -/
def framingPass (s : State) : Bool :=
  decide (7 ≤ s.len) && s.rxbuf.getD 0 0 == s.station && s.crcf == 0x0000#16

/-! ## The binding search (R139 to R141) -/

/-- The request's direction: the accessor FUNC needs (R139). -/
def Binding.serves (b : Binding) (func : Byte) : Bool := if func = 0x03#8 then b.hr else b.hw

/-- `match(k)`: the range conditions on unbounded sums (R140), and the accessor's presence (D33). -/
def Binding.matches (b : Binding) (func : Byte) (addr count : Word) : Bool :=
  decide (b.base.toNat ≤ addr.toNat) &&
  decide (addr.toNat < b.base.toNat + b.cnt.toNat) &&
  decide (addr.toNat + count.toNat ≤ b.base.toNat + b.cnt.toNat) &&
  b.serves func

/-- The index of the first binding of `bs` that matches, the head having index `k` (R139). -/
def searchFrom (func : Byte) (addr count : Word) (k : Nat) : List Binding → Option Nat
  | [] => none
  | b :: bs => if b.matches func addr count then some k else searchFrom func addr count (k + 1) bs

/-- The search over BIND[0 .. NB-1] in registration order (R139). -/
def State.search (s : State) : Option Nat := searchFrom s.func s.addr s.count 0 (s.binds.take s.nb)

/-- A number the spec leaves unspecified, of the width that holds 0 to `n` (R36, R37; assumption log 12). -/
def freeBelow (draw n : Nat) : Nat := Config.freeNat draw % 2 ^ bitsFor n

/-- MATCH (R139, R141): SEL is written and the request goes on with `serve`, or it takes the exception 0x02 with SEL
left without a defined value (R37). -/
def matchPhase (serve : State → State) (s : State) : State :=
  match s.search with
  | some k => serve { s with sel := k }
  | none =>
    raiseException .illegalDataAddress
      { s with sel := freeBelow s.draws (s.cfg.maxBind - 1), draws := s.draws + 1 }

/-- DECODE and MATCH of a request of function `func` with operands ADDR and COUNT (R134, R136, R137): the count guard,
then the search. -/
def guardAndSearch (func : Byte) (addr count : Word) (serve : State → State) (s : State) : State :=
  let s1 : State := { s with ph := .decode, func := func, addr := addr, count := count }
  if s1.cfg.maxReg.val < count.toNat then raiseException .illegalDataAddress s1
  else matchPhase serve { s1 with ph := .matching }

/-! ## The read loop (R151 to R153) -/

/-- The values a read response carries: VALBUF[i] up to the entry the last call wrote; after it, where a call failed,
any value (R152, U1; assumption log 4). When every call succeeded IDX is COUNT. -/
def sentValues (s : State) : List Word :=
  (List.range s.count.toNat).map fun i =>
    if i ≤ s.idx then s.valbuf.getD i 0 else Config.staleWord (s.draws + i) (s.valbuf.getD i 0)

/-- RRSP and SEND of a read response (R153). -/
def readResponse (s : State) : State :=
  emit (readResponseBytes s.station (sentValues s)) { s with ph := .rrsp, draws := s.draws + s.count.toNat }

/-- One completed read call (R53, R151): VALBUF[IDX] takes the value also when the call failed. -/
def completeRead (ok : Bool) (v : Word) (s : State) : State :=
  observe (.accRead s.sel s.accAddr ok v) { s with valbuf := s.valbuf.set s.idx v }

/-- The read loop with `n` registers to go (R151): a call is made and, if its answer is there, completed; a failing call
ends the loop. Without an answer the block rests in RD with the call outstanding (R231). -/
def readLoop : Nat → State → State
  | 0, s => readResponse s
  | n + 1, s =>
    match s.inputs with
    | .answer ok v :: rest =>
      let s1 := completeRead ok v { s with inputs := rest }
      if ok then readLoop n { s1 with idx := s1.idx + 1 } else readResponse s1
    | _ => s

/-- RD from its start (R151). -/
def readPhase (s : State) : State := readLoop s.count.toNat { s with ph := .rd, idx := 0 }

/-! ## The write loop (R161 to R164) -/

/-- Byte `i >= 6` of a request frame whose bytes from index 6 are `rest`: the frame's byte, or, at or beyond the end of
the frame, any value (R162, U2; assumption log 5). -/
def payloadByte (rest : List Byte) (s : State) (i : Nat) : Byte :=
  match rest[i - 6]? with
  | some b => b
  | none => Config.staleByte (s.draws + i) (s.rxbuf.getD i 0)

/-- The COUNT values of a write request, from byte 7, high byte first (R161). -/
def payloadValues (rest : List Byte) (s : State) : List Word :=
  (List.range s.count.toNat).map fun i => be16 (payloadByte rest s (7 + 2 * i)) (payloadByte rest s (8 + 2 * i))

/-- WACK and SEND of a write acknowledgement (R164). -/
def writeAck (s : State) : State := emit (writeAckBytes s.station s.addr s.count) { s with ph := .wack }

/-- One completed write call (R54, R163). -/
def completeWrite (ok : Bool) (s : State) : State :=
  observe (.accWrite s.sel s.accAddr (s.valbuf.getD s.idx 0) ok) s

/-- The write loop with `n` registers to go (R163). -/
def writeLoop : Nat → State → State
  | 0, s => writeAck s
  | n + 1, s =>
    match s.inputs with
    | .answer ok _ :: rest =>
      let s1 := completeWrite ok { s with inputs := rest }
      if ok then writeLoop n { s1 with idx := s1.idx + 1 } else writeAck s1
    | _ => s

/-- WDEC, then WR from its start (R161, R163): every value is decoded into VALBUF before the first call. -/
def writePhase (rest : List Byte) (s : State) : State :=
  writeLoop s.count.toNat
    { s with ph := .wr, idx := 0, valbuf := overwrite s.valbuf (payloadValues rest s), draws := s.draws + s.cfg.rxcap }

/-- A waiting transaction with its answer at hand goes on where it rests (R43, R151, R163). -/
def resume (s : State) : State :=
  match s.ph with
  | .wr => writeLoop (s.count.toNat - s.idx) s
  | _ => readLoop (s.count.toNat - s.idx) s

end Sys2Proof.Machine
end

