-- ==== Sys2Proof/Machine/Configuration.lean ====
section
/-! DEFINITION. RESET, CONFIG and REGISTER (R180 to R185). -/

namespace Sys2Proof.Machine

/-- `n` unspecified bytes, words, table entries (R36), from draw `d`. -/
def freeBytes (d n : Nat) : List Byte := (List.range n).map fun i => Config.freeByte (d + i)

def freeWords (d n : Nat) : List Word := (List.range n).map fun i => Config.freeWord (d + i)

def freeBindings (d n : Nat) : List Binding :=
  (List.range n).map fun i =>
    { base := Config.freeWord (d + 2 * i), cnt := Config.freeWord (d + 2 * i + 1),
      hr := Config.freeBit (d + 2 * i), hw := Config.freeBit (d + 2 * i + 1) }

/-- RESET (R180): PH, NB and CRCH take their reset values, every other element of the block an unspecified one
(assumption log 3). It takes effect in any phase; a call that was outstanding is withdrawn, a transaction in progress
abandoned. -/
def execReset (s : State) : Result :=
  let c := s.cfg
  let d := s.draws
  .next
    { ph := .idle, nb := 0, crch := 0xFFFF#16,
      station := Config.freeByte d,
      func := Config.freeByte (d + 1),
      rxbuf := freeBytes (d + 2) c.rxcap,
      txbuf := freeBytes (d + 2 + c.rxcap) c.txcap,
      addr := Config.freeWord d,
      count := Config.freeWord (d + 1),
      crcf := Config.freeWord (d + 2),
      valbuf := freeWords (d + 3) c.maxReg.val,
      binds := freeBindings (d + 3 + c.maxReg.val) c.maxBind,
      len := freeBelow d c.rxcap,
      txlen := freeBelow (d + 1) c.txcap,
      sel := freeBelow (d + 2) (c.maxBind - 1),
      idx := freeBelow (d + 3) c.maxReg.val,
      cfg := c, inputs := s.inputs, trace := s.trace,
      draws := d + 4 + c.rxcap + c.txcap + c.maxReg.val + 2 * c.maxBind }

/-- CONFIG station (R181); while BUSY it is refused (R226). -/
def execConfig (station : Byte) (s : State) : Result :=
  if s.busy then .refused .startedWhileBusy else .next { s with station := station }

/-- REGISTER is accepted (R182, R185): a count, an accessor and a free entry. -/
def registerAccepted (count : Word) (hasRead hasWrite : Bool) (s : State) : Bool :=
  count != 0#16 && (hasRead || hasWrite) && s.nb != s.cfg.maxBind

/-- REGISTER base, count, has_read, has_write (R182): appended at NB, or a silent no-op (R185); while BUSY it is refused
(R226). -/
def execRegister (base count : Word) (hasRead hasWrite : Bool) (s : State) : Result :=
  if s.busy then .refused .startedWhileBusy
  else if registerAccepted count hasRead hasWrite s then
    .next { s with binds := s.binds.set s.nb { base := base, cnt := count, hr := hasRead, hw := hasWrite },
                   nb := s.nb + 1 }
  else .next s

end Sys2Proof.Machine
end

