-- ==== Sys2Proof/Machine/CrcPort.lean ====
section
/-! DEFINITION. The host CRC port: CRC.INIT, CRC.BYTE and CRC.READ (R116 to R118), in any phase. -/

namespace Sys2Proof.Machine

/-- CRC.INIT (R116). -/
def execCrcInit (s : State) : Result := .next { s with crch := 0xFFFF#16 }

/-- CRC.BYTE x (R117). -/
def execCrcByte (x : Byte) (s : State) : Result := .next { s with crch := crcByte s.crch x }

/-- CRC.READ (R118): it returns CRCH and whether CRCH is zero, and writes nothing. -/
def execCrcRead (s : State) : Result := .next (observe (.crcRead s.crcOut s.crcZero) s)

end Sys2Proof.Machine
end

