-- ==== Sys2Proof/WellFormed.lean ====
section
/-! DEFINITION. Well-formed instructions: the checks a term must pass to be one its row's format admits. -/

namespace Sys2Proof

/-- The bytes of a read or write request: station, function code, address, count, and the bytes from index 6 (R81,
R82). -/
def requestBytes (station func : Byte) (addr count : Word) (rest : List Byte) : List Byte :=
  station :: func :: hi addr :: lo addr :: hi count :: lo count :: rest

/-- The bytes of a request of another kind (R83). -/
def otherBytes (station func : Byte) (rest : List Byte) : List Byte := station :: func :: rest

/-- Tests of the framing layer that need no configuration: at least 7 bytes and CRC residue 0 (R132, R115). -/
def frameIntact (f : List Byte) : Bool := decide (7 ≤ f.length) && crc16 f == 0x0000#16

/-- The checks that decoding the instruction's code back needs: they bound operands, and say nothing of a CRC.
* a request has at least 7 bytes (R91);
* an ILLFN's function code is neither 0x03 nor 0x10 (R88);
* a read response holds at most 127 values, so that its byte count is one byte (R84, R7);
* an exception response's function byte has bit 7 set (R86). -/
def Instr.encodable : Instr → Bool
  | .rhr _ _ _ rest => decide (1 ≤ rest.length)
  | .wmr _ _ _ rest => decide (1 ≤ rest.length)
  | .illfn _ func rest => requestKind func == .illfn && decide (5 ≤ rest.length)
  | .rspR _ values => decide (values.length ≤ 127)
  | .rspW _ _ _ => true
  | .rspE _ func _ => func.getLsbD 7
  | .reset => true
  | .config _ => true
  | .register _ _ _ _ => true
  | .process _ _ => true
  | .crcInit => true
  | .crcByte _ => true
  | .crcRead => true

/-- The whole check: encodable, and what the row's format says of the field values:
* a request frame is intact (R80, R115, R132);
* code 0x02 answers a request of kind RHR or WMR only, so its function byte is 0x83 or 0x90 (R192);
* a delivery at the frame input holds at least one byte (R41). -/
def Instr.wellFormed (i : Instr) : Bool :=
  i.encodable &&
  match i with
  | .rhr station addr count rest => frameIntact (requestBytes station 0x03#8 addr count rest)
  | .wmr station addr count rest => frameIntact (requestBytes station 0x10#8 addr count rest)
  | .illfn station func rest => frameIntact (otherBytes station func rest)
  | .rspR _ _ => true
  | .rspW _ _ _ => true
  | .rspE _ func code => code == .illegalFunction || func == 0x83#8 || func == 0x90#8
  | .reset => true
  | .config _ => true
  | .register _ _ _ _ => true
  | .process bytes _ => !bytes.isEmpty
  | .crcInit => true
  | .crcByte _ => true
  | .crcRead => true

end Sys2Proof
end

