-- ==== Sys2Proof/Decode.lean ====
section
/-! DEFINITION. The decoder, total on every code and refusing by name, and after it the encoder, both written from the
encoding tables of spec/30_encoding.md and spec/opcode_table.json. -/

namespace Sys2Proof

/-! ## The ports (R92, R93) -/

/-- The strobe vector with bit `k` cleared. -/
def clearStrobe (v : BitVec 6) (k : Nat) : BitVec 6 := v &&& ~~~((1#6) <<< k)

/-- The strobe an edge's next operation answers to, by bit number. `rst` excludes every other (R93); CRC.INIT comes
before CRC.BYTE (R45); CONFIG and REGISTER come before a PROCESS that starts on their edge, which then sees them
(R64; assumption log 8). `none`: no strobe, the outputs are read. -/
def firstStrobe (v : BitVec 6) : Option Nat :=
  if v.getLsbD 5 then some 5
  else if v.getLsbD 4 then some 4
  else if v.getLsbD 3 then some 3
  else if v.getLsbD 1 then some 1
  else if v.getLsbD 0 then some 0
  else if v.getLsbD 2 then some 2
  else none

/-- The next operation of an edge (R92, R93). -/
def decodePort (e : PortEdge) : Instr :=
  if e.strobes.getLsbD 5 then .reset
  else if e.strobes.getLsbD 4 then .config e.cfgStation
  else if e.strobes.getLsbD 3 then .register e.cfgBase e.cfgCount e.cfgHasRead e.cfgHasWrite
  else if e.strobes.getLsbD 1 then .crcInit
  else if e.strobes.getLsbD 0 then .crcByte e.crcDin
  else if e.strobes.getLsbD 2 then .process e.rxData e.rxLast
  else .crcRead

/-- What is left of an edge once its next operation is done: the same edge without that strobe, or nothing. After `rst`
nothing is left, whatever else was asserted (R40, R93). -/
def remainingEdge (e : PortEdge) : Option PortEdge :=
  match firstStrobe e.strobes with
  | none => none
  | some k =>
    if k = 5 then none
    else if clearStrobe e.strobes k = 0#6 then none
    else some { e with strobes := clearStrobe e.strobes k }

/-! ## Received frames (R81 to R83, R87, R88) -/

/-- The request kind and operands of a received frame of at least 7 bytes (R88, R136). -/
def decodeRequest (f : List Byte) : Except Reject Instr :=
  if f.length < 7 then .error .requestTooShort
  else match requestKind (frameFunc f) with
    | .rhr => .ok (.rhr (frameStation f) (frameAddr f) (frameCount f) (f.drop 6))
    | .wmr => .ok (.wmr (frameStation f) (frameAddr f) (frameCount f) (f.drop 6))
    | .illfn => .ok (.illfn (frameStation f) (frameFunc f) (f.drop 2))

/-! ## Response frames (R84 to R86, R93) -/

/-- The exception code of a byte (R89). -/
def decodeExcCode (b : Byte) : Except Reject ExcCode :=
  if b = 0x01#8 then .ok .illegalFunction
  else if b = 0x02#8 then .ok .illegalDataAddress
  else .error .responseUnknownCode

/-- The response format and fields of a response frame, its CRC included. -/
def decodeResponse (f : List Byte) : Except Reject Instr :=
  if f.length < 5 then .error .responseTooShort
  else if crc16 f ≠ 0x0000#16 then .error .responseBadCrc
  else if frameFunc f = 0x03#8 then
    if f.length = (f.getD 2 0).toNat + 5 ∧ (f.getD 2 0).toNat % 2 = 0 then
      .ok (.rspR (frameStation f) (bytesToWords ((f.drop 3).take (f.getD 2 0).toNat)))
    else .error .responseWrongLength
  else if frameFunc f = 0x10#8 then
    if f.length = 8 then .ok (.rspW (frameStation f) (frameAddr f) (frameCount f))
    else .error .responseWrongLength
  else if (frameFunc f).getLsbD 7 then
    if f.length = 5 then
      match decodeExcCode (f.getD 2 0) with
      | .ok code => .ok (.rspE (frameStation f) (frameFunc f) code)
      | .error r => .error r
    else .error .responseWrongLength
  else .error .responseUnknownFunction

/-- The decoder. -/
def decode : Code → Except Reject Instr
  | .port e => .ok (decodePort e)
  | .request f => decodeRequest f
  | .response f => decodeResponse f

/-! ## The encoder -/

/-- An edge with every input at 0. -/
def PortEdge.quiet : PortEdge :=
  { strobes := 0, cfgStation := 0, cfgBase := 0, cfgCount := 0, cfgHasRead := false, cfgHasWrite := false,
    rxData := [], rxLast := false, crcDin := 0 }

/-- The code of an instruction: host operations on the ports (R92), request kinds and response formats as frames
(R81 to R86). -/
def encode : Instr → Code
  | .rhr station addr count rest => .request (requestBytes station 0x03#8 addr count rest)
  | .wmr station addr count rest => .request (requestBytes station 0x10#8 addr count rest)
  | .illfn station func rest => .request (otherBytes station func rest)
  | .rspR station values => .response (crcAppend (readResponseBytes station values))
  | .rspW station addr count => .response (crcAppend (writeAckBytes station addr count))
  | .rspE station func code => .response (crcAppend (exceptionBytes station func code))
  | .reset => .port { PortEdge.quiet with strobes := 0x20#6 }
  | .config station => .port { PortEdge.quiet with strobes := 0x10#6, cfgStation := station }
  | .register base count hasRead hasWrite =>
    .port { PortEdge.quiet with strobes := 0x08#6, cfgBase := base, cfgCount := count,
                                cfgHasRead := hasRead, cfgHasWrite := hasWrite }
  | .process bytes last => .port { PortEdge.quiet with strobes := 0x04#6, rxData := bytes, rxLast := last }
  | .crcInit => .port { PortEdge.quiet with strobes := 0x02#6 }
  | .crcByte x => .port { PortEdge.quiet with strobes := 0x01#6, crcDin := x }
  | .crcRead => .port PortEdge.quiet

/-! ## Table keys (R93) -/

/-- The key of a code that the table's match and mask apply to: the strobe vector of an edge, or the 16-bit number with
byte 0 of the frame in bits 15:8 and byte 1 in bits 7:0. -/
def Code.key : Code → Nat
  | .port e => e.strobes.toNat
  | .request f => (be16 (frameStation f) (frameFunc f)).toNat
  | .response f => (be16 (frameStation f) (frameFunc f)).toNat

/-- An instruction's row of spec/opcode_table.json: its match and its mask. -/
def Instr.row : Instr → Nat × Nat
  | .rhr _ _ _ _ => (0x0003, 0x00FF)
  | .wmr _ _ _ _ => (0x0010, 0x00FF)
  | .illfn _ _ _ => (0x0000, 0x0000)
  | .rspR _ _ => (0x0003, 0x00FF)
  | .rspW _ _ _ => (0x0010, 0x00FF)
  | .rspE _ _ _ => (0x0080, 0x0080)
  | .reset => (0x20, 0x20)
  | .config _ => (0x10, 0x30)
  | .register _ _ _ _ => (0x08, 0x28)
  | .process _ _ => (0x04, 0x24)
  | .crcInit => (0x02, 0x22)
  | .crcByte _ => (0x01, 0x21)
  | .crcRead => (0x00, 0x00)

/-- The 7-byte frame whose key is `w` and whose other bytes are 0. -/
def tableFrame (w : Nat) : List Byte :=
  [BitVec.ofNat 8 (w / 256), BitVec.ofNat 8 w, 0, 0, 0, 0, 0]

/-- The edge whose strobe vector is `w`, every operand input at 0; the frame input then carries one byte 0x00. -/
def tableEdge (w : Nat) : PortEdge :=
  { PortEdge.quiet with strobes := BitVec.ofNat 6 w, rxData := [0x00#8] }

/-- What the decoder reads from a table word: a word of up to 8 bits is a strobe vector (of 6 bits: a word beyond it is
no instruction), a longer one the key of a received frame (R93; assumption log 13 on the response rows). -/
def decodeTableWord (nbits w : Nat) : Option Instr :=
  if nbits ≤ 8 then
    if w < 64 then some (decodePort (tableEdge w)) else none
  else
    match decodeRequest (tableFrame w) with
    | .ok i => some i
    | .error _ => none

end Sys2Proof
end

