-- ==== Sys2Proof/Machine/Requests.lean ====
section
/-! DEFINITION. The request kinds RHR, WMR and ILLFN (R88): what the block does with a frame that has passed the framing
checks, from DECODE to the end of the transaction. -/

namespace Sys2Proof.Machine

/-- RHR (R150, after R134 to R142): guard, search, read loop, response. -/
def execRhr (addr count : Word) (s : State) : Result := .next (guardAndSearch 0x03#8 addr count readPhase s)

/-- WMR (R160, after R134 to R142): guard, search, value decode, write loop, acknowledgement. -/
def execWmr (addr count : Word) (rest : List Byte) (s : State) : Result :=
  .next (guardAndSearch 0x10#8 addr count (writePhase rest) s)

/-- ILLFN (R135, R170): FUNC is written and the exception 0x01 taken; nothing else is decoded. -/
def execIllfn (func : Byte) (s : State) : Result :=
  .next (raiseException .illegalFunction { s with ph := .decode, func := func })

end Sys2Proof.Machine
end

