-- ==== Sys2Proof/Machine/Process.lean ====
section
/-! DEFINITION. PROCESS (R130): reception, the framing checks, and the request kind the frame decodes to. -/

namespace Sys2Proof.Machine

/-- DECODE onward (R130, R134 to R142): the received frame's function code selects the request kind (R88). -/
def decodePhase (s : State) : Result :=
  match requestKind (frameFunc s.frame) with
  | .rhr => execRhr (frameAddr s.frame) (frameCount s.frame) s
  | .wmr => execWmr (frameAddr s.frame) (frameCount s.frame) (s.frame.drop 6) s
  | .illfn => execIllfn (frameFunc s.frame) s

/-- CHECK onward (R132, R133). -/
def checkPhase (s : State) : Result :=
  if framingPass s then decodePhase { s with ph := .decode } else .next (dropFrame s)

/-- A delivery in RECV: its bytes are received, and after the last byte of the frame the transaction goes on to its end
(R131, R29). -/
def deliver (bytes : List Byte) (last : Bool) (s : State) : Result :=
  if last then checkPhase { receive bytes s with ph := .check } else .next (receive bytes s)

/-- PROCESS (R130). In IDLE the delivery starts a frame, in RECV it continues one (R41), in any other phase it is refused
(R225). A delivery of no byte is none: nothing changes (R41; assumption log 14). -/
def execProcess (bytes : List Byte) (last : Bool) (s : State) : Result :=
  match s.ph with
  | .idle => if bytes.isEmpty then .next s else deliver bytes last (startReception s)
  | .recv => if bytes.isEmpty then .next s else deliver bytes last s
  | _ => .refused .startedWhileBusy

end Sys2Proof.Machine
end

