-- ==== Sys2Proof/Machine/Responses.lean ====
section
/-! DEFINITION. The response formats RSP.R, RSP.W and RSP.E: the frame is built in TXBUF, terminated with its CRC and handed
to the sink (R153, R164, R172, R174, R175). -/

namespace Sys2Proof.Machine

/-- RSP.R (R153). More values than MAXREG fit no response of this instance (R9, R137). -/
def execRspR (station : Byte) (values : List Word) (s : State) : Result :=
  if values.length ≤ s.cfg.maxReg.val then .next (emit (readResponseBytes station values) s)
  else .refused .responseExceedsBuffer

/-- RSP.W (R164). -/
def execRspW (station : Byte) (addr count : Word) (s : State) : Result :=
  .next (emit (writeAckBytes station addr count) s)

/-- RSP.E (R172). -/
def execRspE (station func : Byte) (code : ExcCode) (s : State) : Result :=
  .next (emit (exceptionBytes station func code) s)

end Sys2Proof.Machine
end

