-- ==== Sys2Proof/Machine/Dispatch.lean ====
section
/-! DEFINITION. One arm per constructor of `Instr`, each the direct call of its meaning. -/

namespace Sys2Proof.Machine

def exec (i : Instr) (s : State) : Host.Outcome State Fault Refusal :=
  match i with
  | .rhr _ addr count _ => Sys2Proof.Machine.execRhr addr count s
  | .wmr _ addr count rest => Sys2Proof.Machine.execWmr addr count rest s
  | .illfn _ func _ => Sys2Proof.Machine.execIllfn func s
  | .rspR station values => Sys2Proof.Machine.execRspR station values s
  | .rspW station addr count => Sys2Proof.Machine.execRspW station addr count s
  | .rspE station func code => Sys2Proof.Machine.execRspE station func code s
  | .reset => Sys2Proof.Machine.execReset s
  | .config station => Sys2Proof.Machine.execConfig station s
  | .register base count hasRead hasWrite => Sys2Proof.Machine.execRegister base count hasRead hasWrite s
  | .process bytes last => Sys2Proof.Machine.execProcess bytes last s
  | .crcInit => Sys2Proof.Machine.execCrcInit s
  | .crcByte x => Sys2Proof.Machine.execCrcByte x s
  | .crcRead => Sys2Proof.Machine.execCrcRead s

end Sys2Proof.Machine
end

