-- ==== Sys2Proof/Machine/Fetch.lean ====
section
/-! DEFINITION. What the block runs next in each phase (R29), and placing an instruction there. -/

namespace Sys2Proof.Machine

/-- What a step runs. -/
inductive Fetched where
  /-- the instruction `i`, in the state left by fetching it -/
  | instr (i : Instr) (s : State)
  /-- a phase of a transaction that is not an instruction of its own -/
  | phase (p : Phase)
  /-- the accessor's answer for a waiting transaction -/
  | answered
  /-- an accessor's answer that no call waits for -/
  | spurious (s : State)
  /-- no move of the outside world, and none needed -/
  | nothing
  /-- no move of the outside world, and an accessor call outstanding -/
  | stuck
  /-- a received frame the decoder refuses -/
  | refused (r : Reject)
deriving DecidableEq, Repr

/-- The rest of the queue once the next operation of edge `e` is taken. -/
def afterEdge (e : PortEdge) (rest : List Input) : List Input :=
  match remainingEdge e with
  | none => rest
  | some e' => .edge e' :: rest

/-- The outside world's next move (R235), where the block can take one. -/
def fetchInput (s : State) : Fetched :=
  match s.inputs with
  | [] => if s.waiting then .stuck else .nothing
  | .answer _ _ :: rest => if s.waiting then .answered else .spurious { s with inputs := rest }
  | .edge e :: rest => .instr (decodePort e) { s with inputs := afterEdge e rest }

/-- What the block runs next. IDLE and RECV wait for the outside world, and so do RD and WR while a call is outstanding.
In DECODE the instruction is the received frame, in RRSP, WACK and XRSP the response that the transaction registers
call for. A run from reset rests in IDLE, RECV, RD and WR only (R11; assumption log 16). -/
def fetch (s : State) : Fetched :=
  match s.ph with
  | .idle => fetchInput s
  | .recv => fetchInput s
  | .rd => if s.waiting then fetchInput s else .phase .rd
  | .wr => if s.waiting then fetchInput s else .phase .wr
  | .decode =>
    match decodeRequest s.frame with
    | .ok i => .instr i s
    | .error r => .refused r
  | .rrsp => .instr (.rspR s.station (sentValues s)) { s with draws := s.draws + s.count.toNat }
  | .wack => .instr (.rspW s.station s.addr s.count) s
  | .xrsp => .instr (.rspE s.station (excFunc s.func) (exceptionOf s.func)) s
  | .check => .phase .check
  | .matching => .phase .matching
  | .wdec => .phase .wdec
  | .send => .phase .send

/-- `s` with the table word `w` placed where the next step takes its instruction: a strobe vector as the outside world's
next move in IDLE, a frame key as a received frame in DECODE. -/
def placeWord (s : State) (nbits w : Nat) : State :=
  if nbits ≤ 8 then { s with ph := .idle, inputs := .edge (tableEdge w) :: s.inputs }
  else { s with ph := .decode, rxbuf := overwrite s.rxbuf (tableFrame w), len := 7 }

end Sys2Proof.Machine
end

