-- ==== Sys2Proof/Machine/Run.lean ====
section
/-! DEFINITION. Running what a step fetches, and a transaction going on from a phase that is no instruction of its own
(R29). -/

namespace Sys2Proof.Machine

/-- The transaction of `s` going on from its phase `p`. -/
def continuePhase (p : Phase) (s : State) : Result :=
  match p with
  | .idle => .next s
  | .recv => .next s
  | .check => checkPhase s
  | .decode => decodePhase s
  | .matching =>
    match requestKind s.func with
    | .rhr => .next (matchPhase readPhase s)
    | _ => .next (matchPhase (writePhase (s.frame.drop 6)) s)
  | .rd => .next (readLoop (s.count.toNat - s.idx) s)
  | .wdec => .next (writePhase (s.frame.drop 6) s)
  | .wr => .next (writeLoop (s.count.toNat - s.idx) s)
  | .rrsp => .next (readResponse s)
  | .wack => .next (writeAck s)
  | .xrsp => .next (raiseException (exceptionOf s.func) s)
  | .send => .next (sendPhase s)

/-- What a step does with what it fetched. -/
def runFetched (f : Fetched) (s : State) : Result :=
  match f with
  | .instr i s' => exec i s'
  | .phase p => continuePhase p s
  | .answered => .next (resume s)
  | .spurious s' => .next s'
  | .nothing => .next s
  | .stuck => .fault .accessorNeverAnswers
  | .refused r => .refused (.undecodable r)

end Sys2Proof.Machine
end

