-- ==== Sys2Proof/Machine/Step.lean ====
section
/-! DEFINITION. One step of the block: it runs what `fetch` gives. -/

namespace Sys2Proof.Machine

/-- `s` with the instruction of table word `w` placed where the next step takes its instruction (assumption log 6, 13). -/
def State.withFetchWord (s : State) (nbits w : Nat) : State := placeWord s nbits w

/-- One step (R11): one operation of the host or of the frame source, the answer an accessor call was waiting for, or, in
a state that rests inside a transaction, the rest of it. -/
def step (s : State) : Host.Outcome State Fault Refusal := runFetched (fetch s) s

end Sys2Proof.Machine
end

