-- ==== Sys2Proof/Safety.lean ====
section
/-! DEFINITION. What counts as a well-formed state and a safe run, in the terms the statements use. -/

namespace Sys2Proof.Machine

/-- A valid entry of the binding table: `CNT > 0` and `HR | HW = 1` (R23). -/
def Binding.valid (b : Binding) : Bool := b.cnt != 0#16 && (b.hr || b.hw)

/-- The buffers and the table have the sizes the parameters give them (R9, R20), and every valid entry keeps the
invariant of R22 and R23. -/
structure State.Sized (s : State) : Prop where
  binds_length  : s.binds.length = s.cfg.maxBind
  nb_le         : s.nb ≤ s.cfg.maxBind
  entries_valid : ∀ b ∈ s.binds.take s.nb, b.valid = true
  valbuf_length : s.valbuf.length = s.cfg.maxReg.val
  rxbuf_length  : s.rxbuf.length = s.cfg.rxcap
  txbuf_length  : s.txbuf.length = s.cfg.txcap

/-- A transaction that waits for an accessor (R53, R54, R150, R160): a served request in its loop, with the registers the
search of this request established, and a register still to do. -/
structure State.Serving (s : State) : Prop where
  guard   : s.count.toNat ≤ s.cfg.maxReg.val
  found   : s.search = some s.sel
  pending : s.idx < s.count.toNat

/-- Where the block may rest between two steps: IDLE; RECV, with at most RXCAP bytes counted (R34); RD and WR with a call
outstanding for a request of the loop's own direction. -/
def State.RestsWell (s : State) : Prop :=
  match s.ph with
  | .idle => True
  | .recv => s.len ≤ s.cfg.rxcap
  | .rd => s.func = 0x03#8 ∧ s.Serving
  | .wr => s.func = 0x10#8 ∧ s.Serving
  | _ => False

/-- Every frame handed to the response sink so far is a complete, CRC-terminated frame that fits TXBUF (R174, R175). -/
def State.SinkFramesIntact (s : State) : Prop :=
  ∀ bytes, Event.respond bytes ∈ s.trace → crc16 bytes = 0x0000#16 ∧ 5 ≤ bytes.length ∧ bytes.length ≤ s.cfg.txcap

/-- The invariant of the machine. -/
structure State.Inv (s : State) : Prop where
  sized : s.Sized
  rests : s.RestsWell
  sink  : s.SinkFramesIntact

/-- An accessor call, as an event. -/
def Event.isCall : Event → Bool
  | .accRead _ _ _ _ => true
  | .accWrite _ _ _ _ => true
  | .respond _ => false
  | .crcRead _ _ => false

/-- A hand-over to the response sink, as an event. -/
def Event.isRespond : Event → Bool
  | .respond _ => true
  | .accRead _ _ _ _ => false
  | .accWrite _ _ _ _ => false
  | .crcRead _ _ => false

/-- A completed accessor call that failed. -/
def Event.failedCall : Event → Bool
  | .accRead _ _ ok _ => !ok
  | .accWrite _ _ _ ok => !ok
  | .respond _ => false
  | .crcRead _ _ => false

/-- The predicate U3 asks for: a response was sent although an accessor call of its transaction failed. -/
def accessorFailedSilently (trace : List Event) : Bool :=
  match trace with
  | e :: .respond bs :: es => e.failedCall || accessorFailedSilently (.respond bs :: es)
  | _ :: es => accessorFailedSilently es
  | [] => false

/-- The duties of R225, R226 and R235: PROCESS starts only in IDLE (and goes on only in RECV), CONFIG and REGISTER come
only while BUSY = 0. Everything else may come at any time. -/
def State.admits (s : State) : Instr → Bool
  | .process _ _ => s.ph == .idle || s.ph == .recv
  | .config _ => !s.busy
  | .register _ _ _ _ => !s.busy
  | .rhr _ _ _ _ => true
  | .wmr _ _ _ _ => true
  | .illfn _ _ _ => true
  | .rspR _ values => decide (values.length ≤ s.cfg.maxReg.val)
  | .rspW _ _ _ => true
  | .rspE _ _ _ => true
  | .reset => true
  | .crcInit => true
  | .crcByte _ => true
  | .crcRead => true

/-! ## Terms of the statements about the accessor loops -/

/-- Accessor answers as moves of the outside world. -/
def answerInputs (as : List (Bool × Word)) : List Input := as.map fun p => .answer p.1 p.2

/-- The answers that end a loop over `n` registers: `n` successes, or some successes and one failure (R151, R163). -/
def endsLoop : Nat → List (Bool × Word) → Bool
  | 0, [] => true
  | n + 1, (true, _) :: as => endsLoop n as
  | _ + 1, [(false, _)] => true
  | _, _ => false

/-- Every answer is a success. -/
def allOk (as : List (Bool × Word)) : Prop := ∀ p ∈ as, p.1 = true

/-- The outside world's next move is no accessor's answer. -/
def NoAnswer (inputs : List Input) : Prop := ∀ ok v rest, inputs ≠ .answer ok v :: rest

/-- How many of the answers are successes: the value the loop leaves in IDX. -/
def successes (as : List (Bool × Word)) : Nat := (as.filter (·.1)).length

/-- The read calls to binding `k` from address `a` on with these answers, one at a time, ascending (R57, R151). -/
def readCalls (k : Nat) (a : Word) : List (Bool × Word) → List Event
  | [] => []
  | (ok, v) :: as => .accRead k a ok v :: readCalls k (a + 1#16) as

/-- The write calls to binding `k` from address `a` on of these values with these answers (R57, R163). -/
def writeCalls (k : Nat) (a : Word) : List Word → List (Bool × Word) → List Event
  | v :: vs, (ok, _) :: as => .accWrite k a v ok :: writeCalls k (a + 1#16) vs as
  | _, _ => []

/-- The conditions of R139 on one binding, as R139 and R140 write them: the range conditions on natural numbers, and the
accessor for the request's direction. -/
def Fits (b : Binding) (read : Bool) (addr count : Word) : Prop :=
  b.base.toNat ≤ addr.toNat ∧ addr.toNat < b.base.toNat + b.cnt.toNat ∧
  addr.toNat + count.toNat ≤ b.base.toNat + b.cnt.toNat ∧ (if read then b.hr else b.hw) = true

/-- `k` is the first registered binding that fits the request (R139). -/
def State.FirstFit (s : State) (read : Bool) (addr count : Word) (k : Nat) : Prop :=
  k < s.nb ∧ (∃ b, s.binds[k]? = some b ∧ Fits b read addr count) ∧
  ∀ j < k, ∀ b, s.binds[j]? = some b → ¬ Fits b read addr count

/-- No registered binding fits the request (R141). -/
def State.NoFit (s : State) (read : Bool) (addr count : Word) : Prop :=
  ∀ j < s.nb, ∀ b, s.binds[j]? = some b → ¬ Fits b read addr count

/-- The framing layer accepts frame `f` (R132). -/
def State.accepts (s : State) (f : List Byte) : Bool :=
  decide (7 ≤ f.length) && frameStation f == s.station && crc16 f == 0x0000#16

/-- The state with another CRCH. -/
def State.withCrch (s : State) (c : Word) : State := { s with crch := c }

/-- The instructions of a list one after another, up to the first that does not answer a next state. -/
def execAll : List Instr → State → Result
  | [], s => .next s
  | i :: is, s =>
    match exec i s with
    | .next t => execAll is t
    | .fault r => .fault r
    | .refused r => .refused r

/-- A result with its next state changed. -/
def Result.map (g : State → State) : Result → Result
  | .next s => .next (g s)
  | .fault r => .fault r
  | .refused r => .refused r

end Sys2Proof.Machine
end

