-- ==== Sys2Proof/Certificates/Slice0/Obligations.lean ====
section
/-! DEFINITION. The statements about the model. Each docstring names the rules of spec/ it rests on. -/

open Sys2Proof Sys2Proof.Machine

/-! ## Reset and configuration -/

/-- 10_state.md section 9 (R36, R220): the elements the spec gives a value at reset, for every choice of parameters. The
other elements are at zero, the model's choice (assumption log 2), of which nothing is said here. -/
def Obligations.ResetStateIsIdleAndEmpty : Prop :=
  (∀ c : Config, (State.resetOf c).ph = .idle ∧ (State.resetOf c).busy = false ∧ (State.resetOf c).nb = 0 ∧
    (State.resetOf c).crch = 0xFFFF#16 ∧ (State.resetOf c).cfg = c ∧ (State.resetOf c).accPort.valid = false) ∧
  State.reset = State.resetOf resetConfig

/-- The invariant holds of the reset state, for every choice of parameters. -/
def Obligations.ResetStateMeetsInvariant : Prop :=
  ∀ c : Config, (State.resetOf c).Inv

/-- R180: RESET in any phase. The elements it leaves unspecified are free values (assumption log 3): of them only the
sizes are said. No response is sent and an outstanding call is withdrawn. -/
def Obligations.ResetTakesEffectInAnyPhase : Prop :=
  ∀ s : State, ∃ t, exec .reset s = .next t ∧
    t.ph = .idle ∧ t.busy = false ∧ t.nb = 0 ∧ t.crch = 0xFFFF#16 ∧ t.accPort.valid = false ∧
    t.trace = s.trace ∧ t.inputs = s.inputs ∧ t.cfg = s.cfg ∧ t.Sized

/-- R181: CONFIG writes STATION and nothing else. -/
def Obligations.ConfigWritesStationOnly : Prop :=
  ∀ (s : State) (station : Byte), s.ph = .idle →
    exec (.config station) s = .next { s with station := station }

/-- R182: REGISTER, accepted or a silent no-op. -/
def Obligations.RegisterAppendsOrIsSilentNoOp : Prop :=
  ∀ (s : State) (base count : Word) (r w : Bool), s.ph = .idle →
    exec (.register base count r w) s = .next
      (if count = 0#16 then s
       else if r = false ∧ w = false then s
       else if s.nb = s.cfg.maxBind then s
       else { s with binds := s.binds.set s.nb { base := base, cnt := count, hr := r, hw := w }, nb := s.nb + 1 })

/-- R183: an accepted binding takes index NB, after every earlier one, and no earlier one changes. -/
def Obligations.AcceptedBindingTakesIndexNB : Prop :=
  ∀ (s : State) (base count : Word) (r w : Bool), s.Sized → s.ph = .idle → count ≠ 0#16 → (r = true ∨ w = true) →
    s.nb ≠ s.cfg.maxBind →
    ∃ t, exec (.register base count r w) s = .next t ∧ t.nb = s.nb + 1 ∧
      t.binds[s.nb]? = some { base := base, cnt := count, hr := r, hw := w } ∧
      (∀ k, k ≠ s.nb → t.binds[k]? = s.binds[k]?) ∧
      t = { s with binds := t.binds, nb := t.nb }

/-! ## Misuse of the interface, and completion of every instruction -/

/-- R225, R226: PROCESS, CONFIG and REGISTER started while BUSY are refused; a delivery in RECV belongs to the frame in
progress and is none of these. -/
def Obligations.MisuseWhileBusyIsRefused : Prop :=
  (∀ (s : State) (station : Byte), s.busy = true → exec (.config station) s = .refused .startedWhileBusy) ∧
  (∀ (s : State) (base count : Word) (r w : Bool), s.busy = true →
    exec (.register base count r w) s = .refused .startedWhileBusy) ∧
  (∀ (s : State) (bytes : List Byte) (last : Bool), s.busy = true → s.ph ≠ .recv →
    exec (.process bytes last) s = .refused .startedWhileBusy)

/-- Every instruction answers a next state exactly in the states that accept it (R225, R226, R235; for RSP.R of more
values than MAXREG the model's own refusal, assumption log 15); no instruction ever faults. -/
def Obligations.EveryAdmittedInstructionCompletes : Prop :=
  ∀ (i : Instr) (s : State),
    (s.admits i = true → ∃ t, exec i s = .next t) ∧ (s.admits i = false → ∃ r, exec i s = .refused r)

/-! ## The CRC Engine -/

/-- R116, R117, R118: the host CRC operations, in any phase; CRC.READ returns CRCH and whether it is zero. -/
def Obligations.HostCrcOperations : Prop :=
  (∀ s : State, exec .crcInit s = .next { s with crch := 0xFFFF#16 }) ∧
  (∀ (s : State) (x : Byte), exec (.crcByte x) s = .next { s with crch := crcByte s.crch x }) ∧
  (∀ s : State, exec .crcRead s = .next { s with trace := s.trace ++ [.crcRead s.crch (decide (s.crch = 0x0000#16))] })

/-- R118, R95 (CRC.COMPUTE): CRC.INIT, one CRC.BYTE for each byte of a span and CRC.READ return the span's checksum. -/
def Obligations.HostSpanComputesCrc16 : Prop :=
  ∀ (s : State) (span : List Byte),
    execAll (.crcInit :: (span.map .crcByte ++ [.crcRead])) s =
      .next { s with crch := crc16 span,
                     trace := s.trace ++ [.crcRead (crc16 span) (decide (crc16 span = 0x0000#16))] }

/-- R112: the byte update agrees with the form software usually has, and with the table form. -/
def Obligations.CrcByteFormsAgree : Prop :=
  ∀ (c : Word) (x : Byte),
    crcByte c x =
      (List.range 8).foldl (fun c _ => if c.getLsbD 0 then (c >>> 1) ^^^ 0xA001#16 else c >>> 1)
        (c ^^^ x.zeroExtend 16) ∧
    crcByte c x = (c >>> 8) ^^^ crcTable (lo (c ^^^ x.zeroExtend 16))

/-- R121 (a), R119: a terminated frame has residue 0. -/
def Obligations.TerminatedFrameHasResidueZero : Prop :=
  ∀ m : List Byte, crc16 (m ++ [lo (crc16 m), hi (crc16 m)]) = 0x0000#16

/-- R115: the two validation tests (A) and (B) agree on every frame of two or more bytes. -/
def Obligations.ValidationFormsAgree : Prop :=
  ∀ (m : List Byte) (l h : Byte), crc16 m = le16 l h ↔ crc16 (m ++ [l, h]) = 0x0000#16

/-- R121 (e): a frame that an idle block accepts, with any one byte changed, is dropped: the sink is not invoked and no
accessor is called. -/
def Obligations.SingleByteErrorIsDropped : Prop :=
  ∀ (s : State) (a b : List Byte) (x y : Byte), s.Sized → s.ph = .idle → s.accepts (a ++ x :: b) = true → x ≠ y →
    ∃ t, exec (.process (a ++ y :: b) true) s = .next t ∧ t.ph = .idle ∧ t.trace = s.trace

/-! ## Reception and the framing layer -/

/-- R131: reception of a frame (here left before its last byte, so that it is seen): what RXBUF, LEN and CRCF hold after
it, and that nothing else has changed. -/
def Obligations.ReceptionStoresCountsAndChecksums : Prop :=
  ∀ (s : State) (f : List Byte), s.Sized → s.ph = .idle → f ≠ [] →
    ∃ t, exec (.process f false) s = .next t ∧ t.ph = .recv ∧
      (∀ j < min f.length s.cfg.rxcap, t.rxbuf[j]? = f[j]?) ∧
      (∀ j, min f.length s.cfg.rxcap ≤ j → t.rxbuf[j]? = s.rxbuf[j]?) ∧
      t.len = min f.length s.cfg.rxcap ∧ t.crcf = crc16 f ∧
      t = { s with ph := .recv, rxbuf := t.rxbuf, len := t.len, crcf := t.crcf }

/-- A frame may reach the frame input in one delivery or in several (R41, assumption log 7): the result is the same. -/
def Obligations.DeliveriesOfAFrameCompose : Prop :=
  ∀ (s : State) (as bs : List Byte) (last : Bool), (s.ph = .idle ∨ s.ph = .recv) → as ≠ [] → bs ≠ [] →
    exec (.process (as ++ bs) last) s = execAll [.process as false, .process bs last] s

/-- A delivery of no byte changes nothing, in IDLE and in RECV: R41 says so of a frame of no byte, and the model of every
delivery (assumption log 14). -/
def Obligations.EmptyDeliveryChangesNothing : Prop :=
  ∀ (s : State) (last : Bool), (s.ph = .idle ∨ s.ph = .recv) → exec (.process [] last) s = .next s

/-- R132, R133: a frame that is too short, for another station or not intact is dropped: only RXBUF, LEN and CRCF change. -/
def Obligations.RejectedFrameIsDroppedSilently : Prop :=
  ∀ (s : State) (f : List Byte), s.Sized → s.ph = .idle → f ≠ [] →
    (f.length < 7 ∨ f[0]? ≠ some s.station ∨ crc16 f ≠ 0x0000#16) →
    exec (.process f true) s =
      .next { s with rxbuf := overwrite s.rxbuf f, len := min f.length s.cfg.rxcap, crcf := crc16 f }

/-- R130, R142: on an accepted frame PROCESS is the request kind that the stored frame decodes to, in the state that
reception has left. -/
def Obligations.ProcessRunsTheDecodedRequest : Prop :=
  ∀ (s : State) (f : List Byte), s.Sized → s.ph = .idle → s.accepts f = true →
    ∃ i, decode (.request (f.take s.cfg.rxcap)) = .ok i ∧
      exec (.process f true) s =
        exec i { s with ph := .decode, rxbuf := overwrite s.rxbuf f, len := min f.length s.cfg.rxcap,
                        crcf := 0x0000#16 }

/-! ## Decode and encode -/

/-- R88, R87, R136: the function-code map and the operands, on every frame of at least 7 bytes. -/
def Obligations.FunctionCodeMapIsComplete : Prop :=
  ∀ (b0 b1 b2 b3 b4 b5 : Byte) (rest : List Byte), rest ≠ [] →
    ∃ addr count : Word, addr.toNat = b2.toNat * 256 + b3.toNat ∧ count.toNat = b4.toNat * 256 + b5.toNat ∧
      decode (.request (b0 :: b1 :: b2 :: b3 :: b4 :: b5 :: rest)) = .ok
        (if b1 = 0x03#8 then .rhr b0 addr count rest
         else if b1 = 0x10#8 then .wmr b0 addr count rest
         else .illfn b0 b1 (b2 :: b3 :: b4 :: b5 :: rest))

/-- Decode and encode agree, on every instruction, every operand at every value the encoding admits. -/
def Obligations.DecodeInvertsEncode : Prop :=
  ∀ i : Instr, i.encodable = true → decode (encode i) = .ok i

/-- A frame has one meaning: encoding what the decoder reads gives the frame back, for requests and for responses. -/
def Obligations.EncodeInvertsDecodeOnFrames : Prop :=
  (∀ (f : List Byte) (i : Instr), decode (.request f) = .ok i → encode i = .request f) ∧
  (∀ (f : List Byte) (i : Instr), decode (.response f) = .ok i → encode i = .response f)

/-- Words written out from the encodings. The read request, the illegal function and the exception response are the spec's
examples (R155, R170); the write request is written out from REQ.W (R82) and is no example of the spec (its last two bytes
are not its CRC, which the decoder does not test); the strobe vectors are those of R92 and R93, and the operands 0 of CONFIG,
REGISTER and CRC.BYTE are the model's reading of a table word (assumption log 13). -/
def Obligations.SampleWordsDecode : Prop :=
  decode (.request [0x11, 0x03, 0x00, 0x00, 0x00, 0x02, 0xC6, 0x9B]) = .ok (.rhr 0x11 0x0000 0x0002 [0xC6, 0x9B]) ∧
  decode (.request [0x11, 0x10, 0x00, 0x01, 0x00, 0x01, 0x02, 0x12, 0x34, 0x36, 0xE8]) =
    .ok (.wmr 0x11 0x0001 0x0001 [0x02, 0x12, 0x34, 0x36, 0xE8]) ∧
  decode (.request [0x11, 0x06, 0x00, 0x01, 0x00, 0x03, 0x9A, 0x9B]) =
    .ok (.illfn 0x11 0x06 [0x00, 0x01, 0x00, 0x03, 0x9A, 0x9B]) ∧
  decode (.response [0x11, 0x86, 0x01, 0x82, 0x65]) = .ok (.rspE 0x11 0x86 .illegalFunction) ∧
  decodeTableWord 8 0b100000 = some .reset ∧
  decodeTableWord 8 0b010000 = some (.config 0x00) ∧
  decodeTableWord 8 0b001000 = some (.register 0x0000 0x0000 false false) ∧
  decodeTableWord 8 0b000010 = some .crcInit ∧
  decodeTableWord 8 0b000001 = some (.crcByte 0x00) ∧
  decodeTableWord 8 0b000000 = some .crcRead

/-- R84, R85, R86: the response formats byte by byte, the CRC low byte first over all the bytes before it. -/
def Obligations.ResponseFormatsByteByByte : Prop :=
  (∀ (st : Byte) (vs : List Word), vs.length ≤ 127 →
    ∃ f, encode (.rspR st vs) = .response f ∧ f.length = 5 + 2 * vs.length ∧
      f[0]? = some st ∧ f[1]? = some 0x03#8 ∧ (∃ n : Byte, f[2]? = some n ∧ n.toNat = 2 * vs.length) ∧
      (∀ (i : Nat) (v : Word), vs[i]? = some v → f[3 + 2 * i]? = some (hi v) ∧ f[4 + 2 * i]? = some (lo v)) ∧
      f[3 + 2 * vs.length]? = some (lo (crc16 (f.take (3 + 2 * vs.length)))) ∧
      f[4 + 2 * vs.length]? = some (hi (crc16 (f.take (3 + 2 * vs.length))))) ∧
  (∀ (st : Byte) (a c : Word), ∃ l h : Byte, encode (.rspW st a c) = .response [st, 0x10, hi a, lo a, hi c, lo c, l, h] ∧
    le16 l h = crc16 [st, 0x10, hi a, lo a, hi c, lo c]) ∧
  (∀ (st fn : Byte) (code : ExcCode), ∃ n l h : Byte, encode (.rspE st fn code) = .response [st, fn, n, l, h] ∧
    n = (match code with | .illegalFunction => 0x01#8 | .illegalDataAddress => 0x02#8) ∧ le16 l h = crc16 [st, fn, n])

/-! ## The request kinds -/

/-- R139, R140: SEL is the first of the registered bindings that fits, by registration order, the sums taken without wrap;
nothing is found exactly when none fits. -/
def Obligations.SearchFindsTheFirstFit : Prop :=
  ∀ s : State, s.nb ≤ s.binds.length →
    (∀ k, s.search = some k ↔ s.FirstFit (decide (s.func = 0x03#8)) s.addr s.count k) ∧
    (s.search = none ↔ s.NoFit (decide (s.func = 0x03#8)) s.addr s.count)

/-- R135, R170, R172: ILLFN answers the exception 0x01, with its function code restated and bit 7 set. Nothing else of the
frame is decoded, no accessor is called. -/
def Obligations.IllegalFunctionIsAnswered : Prop :=
  ∀ (s : State) (st fn : Byte) (rest : List Byte), s.Sized →
    let bytes := [s.station, fn ||| 0x80#8, 0x01#8]
    exec (.illfn st fn rest) s = .next
      { s with ph := .idle, func := fn, txbuf := overwrite s.txbuf (crcAppend bytes), txlen := 5, crcf := crc16 bytes,
               trace := s.trace ++ [.respond (crcAppend bytes)] }

/-- R137: a count above MAXREG takes the exception 0x02 with the request's own function code, before any binding is
examined and with no accessor called; a count of 0 to MAXREG passes, and the request goes on to the search. -/
def Obligations.CountGuardRaisesIllegalDataAddress : Prop :=
  ∀ (s : State) (st : Byte) (a c : Word) (rest : List Byte), s.Sized →
    (s.cfg.maxReg.val < c.toNat →
      (let bytes := [s.station, 0x83#8, 0x02#8]
       exec (.rhr st a c rest) s = .next
        { s with ph := .idle, func := 0x03#8, addr := a, count := c, txbuf := overwrite s.txbuf (crcAppend bytes),
                 txlen := 5, crcf := crc16 bytes, trace := s.trace ++ [.respond (crcAppend bytes)] }) ∧
      (let bytes := [s.station, 0x90#8, 0x02#8]
       exec (.wmr st a c rest) s = .next
        { s with ph := .idle, func := 0x10#8, addr := a, count := c, txbuf := overwrite s.txbuf (crcAppend bytes),
                 txlen := 5, crcf := crc16 bytes, trace := s.trace ++ [.respond (crcAppend bytes)] })) ∧
    (c.toNat ≤ s.cfg.maxReg.val →
      exec (.rhr st a c rest) s = .next
        (matchPhase readPhase { s with ph := .matching, func := 0x03#8, addr := a, count := c }) ∧
      exec (.wmr st a c rest) s = .next
        (matchPhase (writePhase rest) { s with ph := .matching, func := 0x10#8, addr := a, count := c }))

/-- R141, R172: a request that no registered binding fits takes the exception 0x02, with no accessor called. SEL is left
with no defined value (R37): it is a free value, and nothing is said of it. -/
def Obligations.UnmatchedRequestRaisesIllegalDataAddress : Prop :=
  ∀ (s : State) (st : Byte) (a c : Word) (rest : List Byte), s.Sized → c.toNat ≤ s.cfg.maxReg.val →
    (s.NoFit true a c →
      let bytes := [s.station, 0x83#8, 0x02#8]
      ∃ t, exec (.rhr st a c rest) s = .next t ∧
        t = { s with ph := .idle, func := 0x03#8, addr := a, count := c, txbuf := overwrite s.txbuf (crcAppend bytes),
                     txlen := 5, crcf := crc16 bytes, trace := s.trace ++ [.respond (crcAppend bytes)],
                     sel := t.sel, draws := t.draws }) ∧
    (s.NoFit false a c →
      let bytes := [s.station, 0x90#8, 0x02#8]
      ∃ t, exec (.wmr st a c rest) s = .next t ∧
        t = { s with ph := .idle, func := 0x10#8, addr := a, count := c, txbuf := overwrite s.txbuf (crcAppend bytes),
                     txlen := 5, crcf := crc16 bytes, trace := s.trace ++ [.respond (crcAppend bytes)],
                     sel := t.sel, draws := t.draws })

/-- R150 to R153: a served read. The calls go to the first binding that fits, one at a time, at ADDR, ADDR+1, ... modulo
65536 (R55), up to COUNT of them or to the first that fails; the response has the function code, the byte count 2*COUNT
and COUNT value fields, of which those of the calls made are the values answered (the failing call's too); of the fields
after a failing call, free values (assumption log 4), nothing is said. VALBUF holds the values answered and keeps its
other entries. Nothing else changes but the model's own counter. -/
def Obligations.ReadRequestIsServed : Prop :=
  ∀ (s : State) (st : Byte) (a c : Word) (rest : List Byte) (k : Nat) (as : List (Bool × Word)) (more : List Input),
    s.Sized → c.toNat ≤ s.cfg.maxReg.val → s.FirstFit true a c k →
    s.inputs = answerInputs as ++ more → endsLoop c.toNat as = true →
    ∃ (t : State) (values : List Word), exec (.rhr st a c rest) s = .next t ∧ values.length = c.toNat ∧
      (∀ (i : Nat) (p : Bool × Word), as[i]? = some p → values[i]? = some p.2) ∧
      let bytes := s.station :: 0x03#8 :: BitVec.ofNat 8 (2 * c.toNat) :: valueBytes values
      t = { s with ph := .idle, func := 0x03#8, addr := a, count := c, sel := k, idx := successes as,
                   valbuf := overwrite s.valbuf (as.map (·.2)), inputs := more,
                   txbuf := overwrite s.txbuf (crcAppend bytes), txlen := 2 * c.toNat + 5, crcf := crc16 bytes,
                   trace := s.trace ++ readCalls k a as ++ [.respond (crcAppend bytes)], draws := t.draws }

/-- R160 to R164: a served write. Value i is decoded from bytes 7+2i and 8+2i of the frame, high byte first, all of them
into VALBUF before the first call; of a byte beyond the frame's end, a free value (R162, assumption log 5), nothing is said,
while a high byte inside the frame keeps its place. The calls go to the first binding that fits, one at a time, at ADDR,
ADDR+1, ... modulo 65536, up to COUNT of them or to the first that fails; the acknowledgement echoes ADDR and COUNT
whatever the accessors answer. Nothing else changes but the model's own counter. -/
def Obligations.WriteRequestIsServed : Prop :=
  ∀ (s : State) (st : Byte) (a c : Word) (rest : List Byte) (k : Nat) (as : List (Bool × Word)) (more : List Input),
    s.Sized → c.toNat ≤ s.cfg.maxReg.val → s.FirstFit false a c k →
    s.inputs = answerInputs as ++ more → endsLoop c.toNat as = true →
    ∃ (t : State) (values : List Word), exec (.wmr st a c rest) s = .next t ∧ values.length = c.toNat ∧
      (∀ (i : Nat) (h l : Byte), i < c.toNat → rest[1 + 2 * i]? = some h → rest[2 + 2 * i]? = some l →
        values[i]? = some (be16 h l)) ∧
      (∀ (i : Nat) (h : Byte), i < c.toNat → rest[1 + 2 * i]? = some h → ∃ l, values[i]? = some (be16 h l)) ∧
      let bytes := [s.station, 0x10#8, hi a, lo a, hi c, lo c]
      t = { s with ph := .idle, func := 0x10#8, addr := a, count := c, sel := k, idx := successes as,
                   valbuf := overwrite s.valbuf values, inputs := more,
                   txbuf := overwrite s.txbuf (crcAppend bytes), txlen := 8, crcf := crc16 bytes,
                   trace := s.trace ++ writeCalls k a values as ++ [.respond (crcAppend bytes)], draws := t.draws }

/-- R231, R43: when the answers run out the block rests in the loop, BUSY, with the next call on the accessor port and
nothing sent; if no move of the outside world is left, it makes no further step. -/
def Obligations.UnansweredCallLeavesTheBlockWaiting : Prop :=
  ∀ (s : State) (st : Byte) (a c : Word) (rest : List Byte) (k : Nat) (as : List (Bool × Word)) (more : List Input),
    s.Sized → c.toNat ≤ s.cfg.maxReg.val → s.inputs = answerInputs as ++ more → allOk as → as.length < c.toNat →
    NoAnswer more →
    (s.FirstFit true a c k →
      ∃ t, exec (.rhr st a c rest) s = .next t ∧ t.ph = .rd ∧ t.busy = true ∧ t.accPort.valid = true ∧
        t.accPort.write = false ∧ t.accPort.sel = k ∧ t.accPort.addr = a + BitVec.ofNat 16 as.length ∧
        t.trace = s.trace ++ readCalls k a as ∧ t.inputs = more ∧
        step { t with inputs := [] } = .fault .accessorNeverAnswers) ∧
    (s.FirstFit false a c k →
      ∃ (t : State) (values : List Word), exec (.wmr st a c rest) s = .next t ∧ t.ph = .wr ∧ t.busy = true ∧
        t.accPort.valid = true ∧ t.accPort.write = true ∧ t.accPort.sel = k ∧
        t.accPort.addr = a + BitVec.ofNat 16 as.length ∧
        values.length = c.toNat ∧ t.valbuf = overwrite s.valbuf values ∧ values[as.length]? = some t.accPort.wdata ∧
        t.trace = s.trace ++ writeCalls k a values as ∧ t.inputs = more ∧
        step { t with inputs := [] } = .fault .accessorNeverAnswers)

/-- R43, R231, R151, R163: a waiting transaction whose answers arrive goes on from the outstanding call to its end: the
remaining calls in order, then one response, whatever other operations stood between. A read response carries the values
already in VALBUF and those of the answers; of the fields after a failing call, free values (assumption log 4), nothing is
said. VALBUF takes a read's answers from IDX on and is not changed by a write; nothing else changes but what is named, and
on a read the model's own counter. -/
def Obligations.WaitingTransactionResumes : Prop :=
  ∀ (s : State) (as : List (Bool × Word)) (more : List Input), s.Inv →
    s.inputs = answerInputs as ++ more → endsLoop (s.count.toNat - s.idx) as = true →
    (s.ph = .rd → ∃ (t : State) (values : List Word), step s = .next t ∧
      values.length = s.count.toNat ∧ (∀ i < s.idx, values[i]? = s.valbuf[i]?) ∧
      (∀ (j : Nat) (p : Bool × Word), as[j]? = some p → values[s.idx + j]? = some p.2) ∧
      let bytes := s.station :: 0x03#8 :: BitVec.ofNat 8 (2 * s.count.toNat) :: valueBytes values
      t = { s with ph := .idle, idx := s.idx + successes as, inputs := more,
                   valbuf := s.valbuf.take s.idx ++ overwrite (s.valbuf.drop s.idx) (as.map (·.2)),
                   txbuf := overwrite s.txbuf (crcAppend bytes), txlen := 2 * s.count.toNat + 5, crcf := crc16 bytes,
                   trace := s.trace ++ readCalls s.sel s.accAddr as ++ [.respond (crcAppend bytes)],
                   draws := t.draws }) ∧
    (s.ph = .wr →
      let bytes := [s.station, 0x10#8, hi s.addr, lo s.addr, hi s.count, lo s.count]
      step s = .next
        { s with ph := .idle, idx := s.idx + successes as, inputs := more,
                 txbuf := overwrite s.txbuf (crcAppend bytes), txlen := 8, crcf := crc16 bytes,
                 trace := s.trace ++ writeCalls s.sel s.accAddr (s.valbuf.drop s.idx) as ++
                   [.respond (crcAppend bytes)] })

/-- R43, R231: a waiting transaction with fewer answers at hand than calls to make, all successes, completes those calls and
rests in its loop again, with nothing sent and nothing changed but IDX, the moves, the calls observed, and on a read the
VALBUF entries that took the answers. -/
def Obligations.PartlyAnsweredTransactionRestsAgain : Prop :=
  ∀ (s : State) (as : List (Bool × Word)) (more : List Input), s.Inv → as ≠ [] →
    s.inputs = answerInputs as ++ more → allOk as → as.length < s.count.toNat - s.idx → NoAnswer more →
    (s.ph = .rd → step s = .next
      { s with idx := s.idx + as.length, inputs := more,
               valbuf := s.valbuf.take s.idx ++ overwrite (s.valbuf.drop s.idx) (as.map (·.2)),
               trace := s.trace ++ readCalls s.sel s.accAddr as }) ∧
    (s.ph = .wr → step s = .next
      { s with idx := s.idx + as.length, inputs := more,
               trace := s.trace ++ writeCalls s.sel s.accAddr (s.valbuf.drop s.idx) as })

/-! ## The response formats as the block runs them -/

/-- R153, R164, R172, R174, R175: each response is built in TXBUF, terminated with its CRC and handed over once, whole;
PH is IDLE after it; nothing else changes. A read response of more values than MAXREG is refused (the model's own
stop, assumption log 15). -/
def Obligations.ResponsesAreBuiltTerminatedAndSent : Prop :=
  ∀ s : State, s.Sized →
    (∀ (st : Byte) (vs : List Word), vs.length ≤ s.cfg.maxReg.val →
      let bytes := st :: 0x03#8 :: BitVec.ofNat 8 (2 * vs.length) :: valueBytes vs
      exec (.rspR st vs) s = .next
        { s with txbuf := overwrite s.txbuf (crcAppend bytes), txlen := 2 * vs.length + 5, crcf := crc16 bytes,
                 ph := .idle, trace := s.trace ++ [.respond (crcAppend bytes)] }) ∧
    (∀ (st : Byte) (vs : List Word), s.cfg.maxReg.val < vs.length →
      exec (.rspR st vs) s = .refused .responseExceedsBuffer) ∧
    (∀ (st : Byte) (a c : Word),
      let bytes := [st, 0x10#8, hi a, lo a, hi c, lo c]
      exec (.rspW st a c) s = .next
        { s with txbuf := overwrite s.txbuf (crcAppend bytes), txlen := 8, crcf := crc16 bytes, ph := .idle,
                 trace := s.trace ++ [.respond (crcAppend bytes)] }) ∧
    (∀ (st fn : Byte) (code : ExcCode),
      let bytes := [st, fn, code.byte]
      exec (.rspE st fn code) s = .next
        { s with txbuf := overwrite s.txbuf (crcAppend bytes), txlen := 5, crcf := crc16 bytes, ph := .idle,
                 trace := s.trace ++ [.respond (crcAppend bytes)] })

/-- R42: the burst carries the frame's bytes in order, with `tx_last` on the last byte and on no other. -/
def Obligations.BurstMarksTheLastByteOnly : Prop :=
  ∀ bytes : List Byte, (txBurst bytes).map (·.1) = bytes ∧
    ∀ (i : Nat) (b : Byte) (last : Bool), (txBurst bytes)[i]? = some (b, last) → (last = true ↔ i + 1 = bytes.length)

/-! ## One step -/

/-- A step runs the decoded instruction. In IDLE and RECV, and in RD and WR while a call is outstanding, it takes the
outside world's next move: of an edge the next operation, the rest of the edge staying at the head of the queue. In
DECODE it runs the received frame. The moves that run no instruction: with none left, a block in IDLE or RECV does not
change (R209, assumption log 10) and a waiting one is stuck (R231); an answer that no call waits for is dropped (assumption
log 9); the awaited answer is consumed by the transaction going on (`WaitingTransactionResumes`). -/
def Obligations.StepRunsTheDecodedInstruction : Prop :=
  (∀ (s : State) (e : PortEdge) (rest : List Input) (i : Instr),
    (s.ph = .idle ∨ s.ph = .recv ∨ s.waiting = true) → s.inputs = .edge e :: rest → decode (.port e) = .ok i →
    step s = exec i { s with inputs := (match remainingEdge e with | none => rest | some e' => .edge e' :: rest) }) ∧
  (∀ (s : State) (i : Instr), s.ph = .decode → decode (.request s.frame) = .ok i → step s = exec i s) ∧
  (∀ s : State, s.ph = .wack → step s = exec (.rspW s.station s.addr s.count) s) ∧
  (∀ s : State, s.ph = .xrsp → s.func ≠ 0x03#8 → s.func ≠ 0x10#8 →
    step s = exec (.rspE s.station (s.func ||| 0x80#8) .illegalFunction) s) ∧
  (∀ s : State, s.ph = .xrsp → (s.func = 0x03#8 ∨ s.func = 0x10#8) →
    step s = exec (.rspE s.station (s.func ||| 0x80#8) .illegalDataAddress) s) ∧
  (∀ s : State, (s.ph = .idle ∨ s.ph = .recv) → s.inputs = [] → step s = .next s) ∧
  (∀ s : State, s.waiting = true → s.inputs = [] → step s = .fault .accessorNeverAnswers) ∧
  (∀ (s : State) (ok : Bool) (v : Word) (rest : List Input), (s.ph = .idle ∨ s.ph = .recv) →
    s.inputs = .answer ok v :: rest → step s = .next { s with inputs := rest })

/-- A table word placed where the next step takes its instruction is run by that step, for a word of every length and every
state whose buffers have their sizes. The placement changes nothing else: the instruction runs in the state with PH = IDLE
and what is left of the edge before the other moves, or in the state with PH = DECODE and the frame in RXBUF and LEN. -/
def Obligations.PlacedTableWordIsRun : Prop :=
  ∀ (s : State) (nbits w : Nat) (i : Instr), s.Sized → decodeTableWord nbits w = some i →
    step (s.withFetchWord nbits w) = exec i
      (if nbits ≤ 8 then { s with ph := .idle, inputs := afterEdge (tableEdge w) s.inputs }
       else { s with ph := .decode, rxbuf := overwrite s.rxbuf (tableFrame w), len := 7 })

/-- R40, R44, R45, R93: several strobes on one edge. CRC.INIT comes before CRC.BYTE; CONFIG and REGISTER are both performed;
`rst` is performed whatever else is asserted, which is then dropped. -/
def Obligations.SeveralStrobesOnOneEdge : Prop :=
  (∀ (s : State) (e : PortEdge) (rest : List Input), s.ph = .idle → s.inputs = .edge e :: rest → e.strobes = 0b000011#6 →
    ∃ t, step s = .next t ∧ step t = .next { s with inputs := rest, crch := crcByte 0xFFFF#16 e.crcDin }) ∧
  (∀ (s : State) (e : PortEdge) (rest : List Input), s.ph = .idle → s.inputs = .edge e :: rest → e.strobes = 0b011000#6 →
    ∃ t, step s = .next t ∧ step t =
      exec (.register e.cfgBase e.cfgCount e.cfgHasRead e.cfgHasWrite)
        { s with inputs := rest, station := e.cfgStation }) ∧
  (∀ (s : State) (e : PortEdge) (rest : List Input), (s.ph = .idle ∨ s.ph = .recv ∨ s.waiting = true) →
    s.inputs = .edge e :: rest → e.strobes.getLsbD 5 = true → step s = exec .reset { s with inputs := rest })

/-! ## Whole-machine rules -/

/-- R205, R64, R183: only CONFIG, REGISTER and RESET change the configuration, CONFIG the station only, REGISTER the table
only; no instruction changes the parameters. The same of every step, a transaction going on after an answer included: the
station or the table changes only in a step that takes such an operation from the edge at the head of the moves. -/
def Obligations.OnlyTheHostChangesTheConfiguration : Prop :=
  (∀ (i : Instr) (s t : State), exec i s = .next t →
    t.cfg = s.cfg ∧
    (i ≠ .reset → (∀ st, i ≠ .config st) → t.station = s.station) ∧
    (i ≠ .reset → (∀ b c r w, i ≠ .register b c r w) → t.nb = s.nb ∧ t.binds = s.binds)) ∧
  (∀ s t : State, step s = .next t →
    t.cfg = s.cfg ∧
    (t.station ≠ s.station → ∃ (e : PortEdge) (rest : List Input), s.inputs = .edge e :: rest ∧
      (decodePort e = .reset ∨ ∃ st, decodePort e = .config st)) ∧
    ((t.nb ≠ s.nb ∨ t.binds ≠ s.binds) → ∃ (e : PortEdge) (rest : List Input), s.inputs = .edge e :: rest ∧
      (decodePort e = .reset ∨ ∃ b c r w, decodePort e = .register b c r w)))

/-- R32, R196: the frame processor neither reads nor writes the host CRC register: with another CRCH every instruction but
RESET and the CRC operations does the same, and leaves that CRCH. The same of every step whose next move is not an edge with
one of these operations: so of a transaction that goes on after an answer. -/
def Obligations.FrameProcessorIgnoresHostCrc : Prop :=
  (∀ (i : Instr) (s : State) (c : Word), i ≠ .reset → i ≠ .crcInit → (∀ x, i ≠ .crcByte x) → i ≠ .crcRead →
    exec i (s.withCrch c) = Result.map (fun t => t.withCrch c) (exec i s)) ∧
  (∀ (s : State) (c : Word),
    (∀ (e : PortEdge) (rest : List Input), s.inputs = .edge e :: rest →
      decodePort e ≠ .reset ∧ decodePort e ≠ .crcInit ∧ (∀ x, decodePort e ≠ .crcByte x) ∧ decodePort e ≠ .crcRead) →
    step (s.withCrch c) = Result.map (fun t => t.withCrch c) (step s))

/-- R57, R143, R175: what one step adds to what the outside world observes: a CRC.READ's answer, or accessor calls followed
by at most one hand-over; after a hand-over PH is IDLE. -/
def Obligations.StepObservesCallsThenAtMostOneResponse : Prop :=
  ∀ s t : State, s.Inv → step s = .next t →
    (∃ c z, t.trace = s.trace ++ [.crcRead c z]) ∨
    ∃ calls responses, t.trace = s.trace ++ calls ++ responses ∧ (∀ e ∈ calls, e.isCall = true) ∧
      (∀ e ∈ responses, e.isRespond = true) ∧ responses.length ≤ 1 ∧ (responses ≠ [] → t.ph = .idle)

/-- R52, R53, R54: every accessor call goes to a registered binding that has the accessor, at an address of its range
(modulo 65536, R55): the binding table is the block's protection. -/
def Obligations.CallsStayInsideTheBindings : Prop :=
  ∀ s t : State, s.Inv → step s = .next t →
    ∃ new, t.trace = s.trace ++ new ∧
      (∀ k a ok v, Event.accRead k a ok v ∈ new →
        ∃ b, k < s.nb ∧ s.binds[k]? = some b ∧ b.hr = true ∧ ∃ n < b.cnt.toNat, a = b.base + BitVec.ofNat 16 n) ∧
      (∀ k a v ok, Event.accWrite k a v ok ∈ new →
        ∃ b, k < s.nb ∧ s.binds[k]? = some b ∧ b.hw = true ∧ ∃ n < b.cnt.toNat, a = b.base + BitVec.ofNat 16 n)

/-- Every step keeps the invariant: sizes and table entries (R9, R20, R22, R23), the resting phases with what they hold
(R29, R34, R53, R54), and that every frame handed to the sink is complete and CRC-terminated (R174, R175). -/
def Obligations.StepKeepsInvariant : Prop :=
  ∀ s t : State, s.Inv → step s = .next t → t.Inv

/-- R143: with enough answers at hand, PROCESS of a whole frame ends in one step with PH = IDLE: a dropped frame leaves no
event, an accepted one exactly one response, after its accessor calls. -/
def Obligations.AnsweredTransactionEnds : Prop :=
  ∀ (s : State) (f : List Byte) (as : List (Bool × Word)) (more : List Input), s.Sized → s.ph = .idle → f ≠ [] →
    s.inputs = answerInputs as ++ more → s.cfg.maxReg.val ≤ as.length →
    ∃ t, exec (.process f true) s = .next t ∧ t.ph = .idle ∧
      (s.accepts f = false → t.trace = s.trace) ∧
      (s.accepts f = true → ∃ calls bytes, (∀ e ∈ calls, e.isCall = true) ∧ calls.length ≤ s.cfg.maxReg.val ∧
        t.trace = s.trace ++ calls ++ [.respond bytes])

/-- R195: the priority of what a PROCESS reports, down the whole table: dropped; exception 0x01; exception 0x02 by the guard
or by the search; else success or write-ack, whatever the accessors answer. -/
def Obligations.ProcessReportsByPriority : Prop :=
  ∀ (s : State) (b0 b1 b2 b3 b4 b5 : Byte) (rest : List Byte),
    let f := b0 :: b1 :: b2 :: b3 :: b4 :: b5 :: rest
    let a := be16 b2 b3
    let c := be16 b4 b5
    s.Sized → s.ph = .idle →
    if f.length < 7 ∨ b0 ≠ s.station ∨ crc16 f ≠ 0x0000#16 then
      ∃ t, exec (.process f true) s = .next t ∧ t.trace = s.trace
    else if b1 ≠ 0x03#8 ∧ b1 ≠ 0x10#8 then
      ∃ t, exec (.process f true) s = .next t ∧
        t.trace = s.trace ++ [.respond (crcAppend [s.station, b1 ||| 0x80#8, 0x01#8])]
    else if s.cfg.maxReg.val < c.toNat then
      ∃ t, exec (.process f true) s = .next t ∧
        t.trace = s.trace ++ [.respond (crcAppend [s.station, b1 ||| 0x80#8, 0x02#8])]
    else
      (s.NoFit (decide (b1 = 0x03#8)) a c →
        ∃ t, exec (.process f true) s = .next t ∧
          t.trace = s.trace ++ [.respond (crcAppend [s.station, b1 ||| 0x80#8, 0x02#8])]) ∧
      (∀ (k : Nat) (as : List (Bool × Word)) (more : List Input), s.FirstFit (decide (b1 = 0x03#8)) a c k →
        s.inputs = answerInputs as ++ more → endsLoop c.toNat as = true →
        ∃ (t : State) (values : List Word), exec (.process f true) s = .next t ∧ values.length = c.toNat ∧
          (b1 = 0x03#8 → t.trace = s.trace ++ readCalls k a as ++
            [.respond (crcAppend (s.station :: 0x03#8 :: BitVec.ofNat 8 (2 * c.toNat) :: valueBytes values))]) ∧
          (b1 = 0x10#8 → t.trace = s.trace ++ writeCalls k a values as ++
            [.respond (crcAppend [s.station, 0x10#8, hi a, lo a, hi c, lo c])]))
end

