-- ==== Sys2Proof/Laws/Buffers.lean ====
section
/-! SUPPORT. Lemmas about the byte order helpers and the overwriting of buffers. -/

namespace Sys2Proof

/-! ## Byte order -/

@[simp] theorem hi_be16 (h l : Byte) : hi (be16 h l) = h := by
  ext i hi'
  simp only [hi, be16, BitVec.getElem_extractLsb', BitVec.getLsbD_append]
  rw [if_neg (by omega)]; simp [BitVec.getLsbD_eq_getElem, hi']

@[simp] theorem lo_be16 (h l : Byte) : lo (be16 h l) = l := by
  ext i hi'
  simp only [lo, be16, BitVec.getElem_extractLsb', BitVec.getLsbD_append]
  rw [if_pos (by omega)]; simp [BitVec.getLsbD_eq_getElem, hi']

@[simp] theorem be16_hi_lo (v : Word) : be16 (hi v) (lo v) = v := by
  simp only [hi, lo, be16]; ext i hi'
  simp only [BitVec.getElem_append, BitVec.getElem_extractLsb']
  split
  · simp [BitVec.getLsbD_eq_getElem, hi']
  · rename_i h; rw [show 8 + (i - 8) = i by omega]; simp [BitVec.getLsbD_eq_getElem, hi']

theorem le16_eq_be16 (l h : Byte) : le16 l h = be16 h l := rfl

theorem be16_toNat (h l : Byte) : (be16 h l).toNat = h.toNat * 256 + l.toNat := by
  have := h.isLt; have := l.isLt
  simp only [be16, BitVec.toNat_append]
  rw [← Nat.shiftLeft_add_eq_or_of_lt l.isLt, Nat.shiftLeft_eq]

theorem hi_toNat (v : Word) : (hi v).toNat = v.toNat / 256 := by
  have := v.isLt
  simp only [hi, BitVec.extractLsb'_toNat, Nat.shiftRight_eq_div_pow]; omega

theorem lo_toNat (v : Word) : (lo v).toNat = v.toNat % 256 := by
  simp [lo, BitVec.extractLsb'_toNat]

/-! ## overwrite -/

section overwrite
variable {α : Type}

@[simp] theorem overwrite_nil_right (buf : List α) : overwrite buf [] = buf := by
  cases buf <;> rfl

@[simp] theorem overwrite_nil_left (vs : List α) : overwrite ([] : List α) vs = [] := by
  cases vs <;> rfl

@[simp] theorem overwrite_cons (a v : α) (buf vs : List α) :
    overwrite (a :: buf) (v :: vs) = v :: overwrite buf vs := rfl

@[simp] theorem overwrite_length (buf vs : List α) : (overwrite buf vs).length = buf.length := by
  induction buf generalizing vs with
  | nil => simp
  | cons a buf ih => cases vs <;> simp [ih]

/-- Entry `i` after an overwrite: the new value where there is one and the buffer reaches it, else the old entry. -/
theorem overwrite_getElem? (buf vs : List α) (i : Nat) :
    (overwrite buf vs)[i]? = if i < vs.length ∧ i < buf.length then vs[i]? else buf[i]? := by
  induction buf generalizing vs i with
  | nil => simp
  | cons a buf ih =>
    cases vs with
    | nil => simp
    | cons v vs => cases i <;> simp [ih]

theorem overwrite_eq_append (buf vs : List α) (h : vs.length ≤ buf.length) :
    overwrite buf vs = vs ++ buf.drop vs.length := by
  induction buf generalizing vs with
  | nil => cases vs <;> simp_all
  | cons a buf ih => cases vs <;> simp_all

theorem overwrite_take (buf vs : List α) (h : vs.length ≤ buf.length) :
    (overwrite buf vs).take vs.length = vs := by
  rw [overwrite_eq_append _ _ h]; simp

/-- Writing one more entry after an overwrite is overwriting with one more value. -/
theorem overwrite_set (buf vs : List α) (x : α) :
    (overwrite buf vs).set vs.length x = overwrite buf (vs ++ [x]) := by
  induction buf generalizing vs with
  | nil => simp
  | cons a buf ih => cases vs <;> simp [ih]

end overwrite

/-! ## Frames -/

@[simp] theorem valueBytes_length (vs : List Word) : (valueBytes vs).length = 2 * vs.length := by
  induction vs with
  | nil => rfl
  | cons v vs ih => simp only [valueBytes, List.length_cons, ih]; omega

@[simp] theorem bytesToWords_valueBytes (vs : List Word) : bytesToWords (valueBytes vs) = vs := by
  induction vs with
  | nil => rfl
  | cons v vs ih => simp [valueBytes, bytesToWords, ih]

@[simp] theorem crcAppend_length (m : List Byte) : (crcAppend m).length = m.length + 2 := by simp [crcAppend]

@[simp] theorem readResponseBytes_length (st : Byte) (vs : List Word) :
    (readResponseBytes st vs).length = 3 + 2 * vs.length := by simp [readResponseBytes]; omega

@[simp] theorem writeAckBytes_length (st : Byte) (a c : Word) : (writeAckBytes st a c).length = 6 := rfl

@[simp] theorem exceptionBytes_length (st f : Byte) (c : ExcCode) : (exceptionBytes st f c).length = 3 := rfl

theorem txcap_bounds (c : Config) : 2 * c.maxReg.val + 5 ≤ c.txcap ∧ 8 ≤ c.txcap := by
  simp only [Config.txcap]; omega

theorem rxcap_ge (c : Config) : 7 ≤ c.rxcap := by simp only [Config.rxcap]; omega

end Sys2Proof
end

