-- ==== Sys2Proof/Laws/Crc.lean ====
section
/-! SUPPORT. Lemmas about the CRC Engine's functions. -/

namespace Sys2Proof

@[simp] theorem crcFrom_nil (c : Word) : crcFrom c [] = c := rfl

@[simp] theorem crcFrom_cons (c : Word) (b : Byte) (bs : List Byte) :
    crcFrom c (b :: bs) = crcFrom (crcByte c b) bs := rfl

/-- Incrementality (R121 (b)). -/
theorem crcFrom_append (c : Word) (as bs : List Byte) : crcFrom c (as ++ bs) = crcFrom (crcFrom c as) bs := by
  simp [crcFrom]

theorem crc16_append (as bs : List Byte) : crc16 (as ++ bs) = crcFrom (crc16 as) bs := crcFrom_append _ _ _

/-- The shift iteration is linear over exclusive-or (R112). -/
theorem crcBit_xor (a b : Word) (d e : Bool) : crcBit (a ^^^ b) (d ^^ e) = crcBit a d ^^^ crcBit b e := by
  have hs : (a ^^^ b) >>> 1 = a >>> 1 ^^^ b >>> 1 := by ext i hi; simp
  simp only [crcBit, BitVec.getLsbD_xor, hs]
  cases a.getLsbD 0 <;> cases b.getLsbD 0 <;> cases d <;> cases e <;>
    simp <;> ext i hi <;> simp [Bool.xor_left_comm, Bool.xor_comm]

theorem crcByte_unfold (c : Word) (x : Byte) :
    crcByte c x =
      crcBit (crcBit (crcBit (crcBit (crcBit (crcBit (crcBit (crcBit c (x.getLsbD 0)) (x.getLsbD 1)) (x.getLsbD 2))
        (x.getLsbD 3)) (x.getLsbD 4)) (x.getLsbD 5)) (x.getLsbD 6)) (x.getLsbD 7) := rfl

/-- The byte update is linear over exclusive-or (R112). -/
theorem crcByte_xor (a b : Word) (x y : Byte) : crcByte (a ^^^ b) (x ^^^ y) = crcByte a x ^^^ crcByte b y := by
  simp only [crcByte_unfold, BitVec.getLsbD_xor, crcBit_xor]

/-- A shift iteration whose data bit is the bit shifted out only shifts (R111). -/
theorem crcBit_self (c : Word) : crcBit c (c.getLsbD 0) = c >>> 1 := by simp [crcBit]

end Sys2Proof
end

