-- ==== Sys2Proof/Laws/State.lean ====
section
/-! SUPPORT. What each named update of the state leaves in each field: one lemma per field per update. -/

namespace Sys2Proof.Machine

/-! ## endTransaction -/

@[simp] theorem endTransaction_station (s : State) : (endTransaction s).station = s.station := rfl
@[simp] theorem endTransaction_nb (s : State) : (endTransaction s).nb = s.nb := rfl
@[simp] theorem endTransaction_binds (s : State) : (endTransaction s).binds = s.binds := rfl
@[simp] theorem endTransaction_valbuf (s : State) : (endTransaction s).valbuf = s.valbuf := rfl
@[simp] theorem endTransaction_rxbuf (s : State) : (endTransaction s).rxbuf = s.rxbuf := rfl
@[simp] theorem endTransaction_len (s : State) : (endTransaction s).len = s.len := rfl
@[simp] theorem endTransaction_txbuf (s : State) : (endTransaction s).txbuf = s.txbuf := rfl
@[simp] theorem endTransaction_txlen (s : State) : (endTransaction s).txlen = s.txlen := rfl
@[simp] theorem endTransaction_func (s : State) : (endTransaction s).func = s.func := rfl
@[simp] theorem endTransaction_addr (s : State) : (endTransaction s).addr = s.addr := rfl
@[simp] theorem endTransaction_count (s : State) : (endTransaction s).count = s.count := rfl
@[simp] theorem endTransaction_sel (s : State) : (endTransaction s).sel = s.sel := rfl
@[simp] theorem endTransaction_idx (s : State) : (endTransaction s).idx = s.idx := rfl
@[simp] theorem endTransaction_ph (s : State) : (endTransaction s).ph = .idle := rfl
@[simp] theorem endTransaction_crcf (s : State) : (endTransaction s).crcf = s.crcf := rfl
@[simp] theorem endTransaction_crch (s : State) : (endTransaction s).crch = s.crch := rfl
@[simp] theorem endTransaction_cfg (s : State) : (endTransaction s).cfg = s.cfg := rfl
@[simp] theorem endTransaction_inputs (s : State) : (endTransaction s).inputs = s.inputs := rfl
@[simp] theorem endTransaction_trace (s : State) : (endTransaction s).trace = s.trace := rfl
@[simp] theorem endTransaction_draws (s : State) : (endTransaction s).draws = s.draws := rfl

/-! ## observe -/

@[simp] theorem observe_station (e : Event) (s : State) : (observe e s).station = s.station := rfl
@[simp] theorem observe_nb (e : Event) (s : State) : (observe e s).nb = s.nb := rfl
@[simp] theorem observe_binds (e : Event) (s : State) : (observe e s).binds = s.binds := rfl
@[simp] theorem observe_valbuf (e : Event) (s : State) : (observe e s).valbuf = s.valbuf := rfl
@[simp] theorem observe_rxbuf (e : Event) (s : State) : (observe e s).rxbuf = s.rxbuf := rfl
@[simp] theorem observe_len (e : Event) (s : State) : (observe e s).len = s.len := rfl
@[simp] theorem observe_txbuf (e : Event) (s : State) : (observe e s).txbuf = s.txbuf := rfl
@[simp] theorem observe_txlen (e : Event) (s : State) : (observe e s).txlen = s.txlen := rfl
@[simp] theorem observe_func (e : Event) (s : State) : (observe e s).func = s.func := rfl
@[simp] theorem observe_addr (e : Event) (s : State) : (observe e s).addr = s.addr := rfl
@[simp] theorem observe_count (e : Event) (s : State) : (observe e s).count = s.count := rfl
@[simp] theorem observe_sel (e : Event) (s : State) : (observe e s).sel = s.sel := rfl
@[simp] theorem observe_idx (e : Event) (s : State) : (observe e s).idx = s.idx := rfl
@[simp] theorem observe_ph (e : Event) (s : State) : (observe e s).ph = s.ph := rfl
@[simp] theorem observe_crcf (e : Event) (s : State) : (observe e s).crcf = s.crcf := rfl
@[simp] theorem observe_crch (e : Event) (s : State) : (observe e s).crch = s.crch := rfl
@[simp] theorem observe_cfg (e : Event) (s : State) : (observe e s).cfg = s.cfg := rfl
@[simp] theorem observe_inputs (e : Event) (s : State) : (observe e s).inputs = s.inputs := rfl
@[simp] theorem observe_trace (e : Event) (s : State) : (observe e s).trace = s.trace ++ [e] := rfl
@[simp] theorem observe_draws (e : Event) (s : State) : (observe e s).draws = s.draws := rfl

/-! ## buildTx -/

@[simp] theorem buildTx_station (bs : List Byte) (s : State) : (buildTx bs s).station = s.station := rfl
@[simp] theorem buildTx_nb (bs : List Byte) (s : State) : (buildTx bs s).nb = s.nb := rfl
@[simp] theorem buildTx_binds (bs : List Byte) (s : State) : (buildTx bs s).binds = s.binds := rfl
@[simp] theorem buildTx_valbuf (bs : List Byte) (s : State) : (buildTx bs s).valbuf = s.valbuf := rfl
@[simp] theorem buildTx_rxbuf (bs : List Byte) (s : State) : (buildTx bs s).rxbuf = s.rxbuf := rfl
@[simp] theorem buildTx_len (bs : List Byte) (s : State) : (buildTx bs s).len = s.len := rfl
@[simp] theorem buildTx_txbuf (bs : List Byte) (s : State) : (buildTx bs s).txbuf = overwrite s.txbuf bs := rfl
@[simp] theorem buildTx_txlen (bs : List Byte) (s : State) : (buildTx bs s).txlen = bs.length := rfl
@[simp] theorem buildTx_func (bs : List Byte) (s : State) : (buildTx bs s).func = s.func := rfl
@[simp] theorem buildTx_addr (bs : List Byte) (s : State) : (buildTx bs s).addr = s.addr := rfl
@[simp] theorem buildTx_count (bs : List Byte) (s : State) : (buildTx bs s).count = s.count := rfl
@[simp] theorem buildTx_sel (bs : List Byte) (s : State) : (buildTx bs s).sel = s.sel := rfl
@[simp] theorem buildTx_idx (bs : List Byte) (s : State) : (buildTx bs s).idx = s.idx := rfl
@[simp] theorem buildTx_ph (bs : List Byte) (s : State) : (buildTx bs s).ph = .send := rfl
@[simp] theorem buildTx_crcf (bs : List Byte) (s : State) : (buildTx bs s).crcf = s.crcf := rfl
@[simp] theorem buildTx_crch (bs : List Byte) (s : State) : (buildTx bs s).crch = s.crch := rfl
@[simp] theorem buildTx_cfg (bs : List Byte) (s : State) : (buildTx bs s).cfg = s.cfg := rfl
@[simp] theorem buildTx_inputs (bs : List Byte) (s : State) : (buildTx bs s).inputs = s.inputs := rfl
@[simp] theorem buildTx_trace (bs : List Byte) (s : State) : (buildTx bs s).trace = s.trace := rfl
@[simp] theorem buildTx_draws (bs : List Byte) (s : State) : (buildTx bs s).draws = s.draws := rfl

/-! ## appendCrc -/

@[simp] theorem appendCrc_station (s : State) : (appendCrc s).station = s.station := rfl
@[simp] theorem appendCrc_nb (s : State) : (appendCrc s).nb = s.nb := rfl
@[simp] theorem appendCrc_binds (s : State) : (appendCrc s).binds = s.binds := rfl
@[simp] theorem appendCrc_valbuf (s : State) : (appendCrc s).valbuf = s.valbuf := rfl
@[simp] theorem appendCrc_rxbuf (s : State) : (appendCrc s).rxbuf = s.rxbuf := rfl
@[simp] theorem appendCrc_len (s : State) : (appendCrc s).len = s.len := rfl
@[simp] theorem appendCrc_txbuf (s : State) : (appendCrc s).txbuf = (s.txbuf.set s.txlen (lo (crc16 (s.txbuf.take s.txlen)))).set (s.txlen + 1) (hi (crc16 (s.txbuf.take s.txlen))) := rfl
@[simp] theorem appendCrc_txlen (s : State) : (appendCrc s).txlen = s.txlen + 2 := rfl
@[simp] theorem appendCrc_func (s : State) : (appendCrc s).func = s.func := rfl
@[simp] theorem appendCrc_addr (s : State) : (appendCrc s).addr = s.addr := rfl
@[simp] theorem appendCrc_count (s : State) : (appendCrc s).count = s.count := rfl
@[simp] theorem appendCrc_sel (s : State) : (appendCrc s).sel = s.sel := rfl
@[simp] theorem appendCrc_idx (s : State) : (appendCrc s).idx = s.idx := rfl
@[simp] theorem appendCrc_ph (s : State) : (appendCrc s).ph = s.ph := rfl
@[simp] theorem appendCrc_crcf (s : State) : (appendCrc s).crcf = crc16 (s.txbuf.take s.txlen) := rfl
@[simp] theorem appendCrc_crch (s : State) : (appendCrc s).crch = s.crch := rfl
@[simp] theorem appendCrc_cfg (s : State) : (appendCrc s).cfg = s.cfg := rfl
@[simp] theorem appendCrc_inputs (s : State) : (appendCrc s).inputs = s.inputs := rfl
@[simp] theorem appendCrc_trace (s : State) : (appendCrc s).trace = s.trace := rfl
@[simp] theorem appendCrc_draws (s : State) : (appendCrc s).draws = s.draws := rfl

/-! ## startReception -/

@[simp] theorem startReception_station (s : State) : (startReception s).station = s.station := rfl
@[simp] theorem startReception_nb (s : State) : (startReception s).nb = s.nb := rfl
@[simp] theorem startReception_binds (s : State) : (startReception s).binds = s.binds := rfl
@[simp] theorem startReception_valbuf (s : State) : (startReception s).valbuf = s.valbuf := rfl
@[simp] theorem startReception_rxbuf (s : State) : (startReception s).rxbuf = s.rxbuf := rfl
@[simp] theorem startReception_len (s : State) : (startReception s).len = 0 := rfl
@[simp] theorem startReception_txbuf (s : State) : (startReception s).txbuf = s.txbuf := rfl
@[simp] theorem startReception_txlen (s : State) : (startReception s).txlen = s.txlen := rfl
@[simp] theorem startReception_func (s : State) : (startReception s).func = s.func := rfl
@[simp] theorem startReception_addr (s : State) : (startReception s).addr = s.addr := rfl
@[simp] theorem startReception_count (s : State) : (startReception s).count = s.count := rfl
@[simp] theorem startReception_sel (s : State) : (startReception s).sel = s.sel := rfl
@[simp] theorem startReception_idx (s : State) : (startReception s).idx = s.idx := rfl
@[simp] theorem startReception_ph (s : State) : (startReception s).ph = .recv := rfl
@[simp] theorem startReception_crcf (s : State) : (startReception s).crcf = 0xFFFF#16 := rfl
@[simp] theorem startReception_crch (s : State) : (startReception s).crch = s.crch := rfl
@[simp] theorem startReception_cfg (s : State) : (startReception s).cfg = s.cfg := rfl
@[simp] theorem startReception_inputs (s : State) : (startReception s).inputs = s.inputs := rfl
@[simp] theorem startReception_trace (s : State) : (startReception s).trace = s.trace := rfl
@[simp] theorem startReception_draws (s : State) : (startReception s).draws = s.draws := rfl

/-! ## receiveByte -/

@[simp] theorem receiveByte_station (s : State) (x : Byte) : (receiveByte s x).station = s.station := rfl
@[simp] theorem receiveByte_nb (s : State) (x : Byte) : (receiveByte s x).nb = s.nb := rfl
@[simp] theorem receiveByte_binds (s : State) (x : Byte) : (receiveByte s x).binds = s.binds := rfl
@[simp] theorem receiveByte_valbuf (s : State) (x : Byte) : (receiveByte s x).valbuf = s.valbuf := rfl
@[simp] theorem receiveByte_rxbuf (s : State) (x : Byte) : (receiveByte s x).rxbuf = if s.len < s.cfg.rxcap then s.rxbuf.set s.len x else s.rxbuf := rfl
@[simp] theorem receiveByte_len (s : State) (x : Byte) : (receiveByte s x).len = min (s.len + 1) s.cfg.rxcap := rfl
@[simp] theorem receiveByte_txbuf (s : State) (x : Byte) : (receiveByte s x).txbuf = s.txbuf := rfl
@[simp] theorem receiveByte_txlen (s : State) (x : Byte) : (receiveByte s x).txlen = s.txlen := rfl
@[simp] theorem receiveByte_func (s : State) (x : Byte) : (receiveByte s x).func = s.func := rfl
@[simp] theorem receiveByte_addr (s : State) (x : Byte) : (receiveByte s x).addr = s.addr := rfl
@[simp] theorem receiveByte_count (s : State) (x : Byte) : (receiveByte s x).count = s.count := rfl
@[simp] theorem receiveByte_sel (s : State) (x : Byte) : (receiveByte s x).sel = s.sel := rfl
@[simp] theorem receiveByte_idx (s : State) (x : Byte) : (receiveByte s x).idx = s.idx := rfl
@[simp] theorem receiveByte_ph (s : State) (x : Byte) : (receiveByte s x).ph = s.ph := rfl
@[simp] theorem receiveByte_crcf (s : State) (x : Byte) : (receiveByte s x).crcf = crcByte s.crcf x := rfl
@[simp] theorem receiveByte_crch (s : State) (x : Byte) : (receiveByte s x).crch = s.crch := rfl
@[simp] theorem receiveByte_cfg (s : State) (x : Byte) : (receiveByte s x).cfg = s.cfg := rfl
@[simp] theorem receiveByte_inputs (s : State) (x : Byte) : (receiveByte s x).inputs = s.inputs := rfl
@[simp] theorem receiveByte_trace (s : State) (x : Byte) : (receiveByte s x).trace = s.trace := rfl
@[simp] theorem receiveByte_draws (s : State) (x : Byte) : (receiveByte s x).draws = s.draws := rfl

/-! ## completeRead -/

@[simp] theorem completeRead_station (ok : Bool) (v : Word) (s : State) : (completeRead ok v s).station = s.station := rfl
@[simp] theorem completeRead_nb (ok : Bool) (v : Word) (s : State) : (completeRead ok v s).nb = s.nb := rfl
@[simp] theorem completeRead_binds (ok : Bool) (v : Word) (s : State) : (completeRead ok v s).binds = s.binds := rfl
@[simp] theorem completeRead_valbuf (ok : Bool) (v : Word) (s : State) : (completeRead ok v s).valbuf = s.valbuf.set s.idx v := rfl
@[simp] theorem completeRead_rxbuf (ok : Bool) (v : Word) (s : State) : (completeRead ok v s).rxbuf = s.rxbuf := rfl
@[simp] theorem completeRead_len (ok : Bool) (v : Word) (s : State) : (completeRead ok v s).len = s.len := rfl
@[simp] theorem completeRead_txbuf (ok : Bool) (v : Word) (s : State) : (completeRead ok v s).txbuf = s.txbuf := rfl
@[simp] theorem completeRead_txlen (ok : Bool) (v : Word) (s : State) : (completeRead ok v s).txlen = s.txlen := rfl
@[simp] theorem completeRead_func (ok : Bool) (v : Word) (s : State) : (completeRead ok v s).func = s.func := rfl
@[simp] theorem completeRead_addr (ok : Bool) (v : Word) (s : State) : (completeRead ok v s).addr = s.addr := rfl
@[simp] theorem completeRead_count (ok : Bool) (v : Word) (s : State) : (completeRead ok v s).count = s.count := rfl
@[simp] theorem completeRead_sel (ok : Bool) (v : Word) (s : State) : (completeRead ok v s).sel = s.sel := rfl
@[simp] theorem completeRead_idx (ok : Bool) (v : Word) (s : State) : (completeRead ok v s).idx = s.idx := rfl
@[simp] theorem completeRead_ph (ok : Bool) (v : Word) (s : State) : (completeRead ok v s).ph = s.ph := rfl
@[simp] theorem completeRead_crcf (ok : Bool) (v : Word) (s : State) : (completeRead ok v s).crcf = s.crcf := rfl
@[simp] theorem completeRead_crch (ok : Bool) (v : Word) (s : State) : (completeRead ok v s).crch = s.crch := rfl
@[simp] theorem completeRead_cfg (ok : Bool) (v : Word) (s : State) : (completeRead ok v s).cfg = s.cfg := rfl
@[simp] theorem completeRead_inputs (ok : Bool) (v : Word) (s : State) : (completeRead ok v s).inputs = s.inputs := rfl
@[simp] theorem completeRead_trace (ok : Bool) (v : Word) (s : State) : (completeRead ok v s).trace = s.trace ++ [.accRead s.sel s.accAddr ok v] := rfl
@[simp] theorem completeRead_draws (ok : Bool) (v : Word) (s : State) : (completeRead ok v s).draws = s.draws := rfl

/-! ## completeWrite -/

@[simp] theorem completeWrite_station (ok : Bool) (s : State) : (completeWrite ok s).station = s.station := rfl
@[simp] theorem completeWrite_nb (ok : Bool) (s : State) : (completeWrite ok s).nb = s.nb := rfl
@[simp] theorem completeWrite_binds (ok : Bool) (s : State) : (completeWrite ok s).binds = s.binds := rfl
@[simp] theorem completeWrite_valbuf (ok : Bool) (s : State) : (completeWrite ok s).valbuf = s.valbuf := rfl
@[simp] theorem completeWrite_rxbuf (ok : Bool) (s : State) : (completeWrite ok s).rxbuf = s.rxbuf := rfl
@[simp] theorem completeWrite_len (ok : Bool) (s : State) : (completeWrite ok s).len = s.len := rfl
@[simp] theorem completeWrite_txbuf (ok : Bool) (s : State) : (completeWrite ok s).txbuf = s.txbuf := rfl
@[simp] theorem completeWrite_txlen (ok : Bool) (s : State) : (completeWrite ok s).txlen = s.txlen := rfl
@[simp] theorem completeWrite_func (ok : Bool) (s : State) : (completeWrite ok s).func = s.func := rfl
@[simp] theorem completeWrite_addr (ok : Bool) (s : State) : (completeWrite ok s).addr = s.addr := rfl
@[simp] theorem completeWrite_count (ok : Bool) (s : State) : (completeWrite ok s).count = s.count := rfl
@[simp] theorem completeWrite_sel (ok : Bool) (s : State) : (completeWrite ok s).sel = s.sel := rfl
@[simp] theorem completeWrite_idx (ok : Bool) (s : State) : (completeWrite ok s).idx = s.idx := rfl
@[simp] theorem completeWrite_ph (ok : Bool) (s : State) : (completeWrite ok s).ph = s.ph := rfl
@[simp] theorem completeWrite_crcf (ok : Bool) (s : State) : (completeWrite ok s).crcf = s.crcf := rfl
@[simp] theorem completeWrite_crch (ok : Bool) (s : State) : (completeWrite ok s).crch = s.crch := rfl
@[simp] theorem completeWrite_cfg (ok : Bool) (s : State) : (completeWrite ok s).cfg = s.cfg := rfl
@[simp] theorem completeWrite_inputs (ok : Bool) (s : State) : (completeWrite ok s).inputs = s.inputs := rfl
@[simp] theorem completeWrite_trace (ok : Bool) (s : State) : (completeWrite ok s).trace = s.trace ++ [.accWrite s.sel s.accAddr (s.valbuf.getD s.idx 0) ok] := rfl
@[simp] theorem completeWrite_draws (ok : Bool) (s : State) : (completeWrite ok s).draws = s.draws := rfl

/-! ## withCrch -/

@[simp] theorem withCrch_station (s : State) (c : Word) : (s.withCrch c).station = s.station := rfl
@[simp] theorem withCrch_nb (s : State) (c : Word) : (s.withCrch c).nb = s.nb := rfl
@[simp] theorem withCrch_binds (s : State) (c : Word) : (s.withCrch c).binds = s.binds := rfl
@[simp] theorem withCrch_valbuf (s : State) (c : Word) : (s.withCrch c).valbuf = s.valbuf := rfl
@[simp] theorem withCrch_rxbuf (s : State) (c : Word) : (s.withCrch c).rxbuf = s.rxbuf := rfl
@[simp] theorem withCrch_len (s : State) (c : Word) : (s.withCrch c).len = s.len := rfl
@[simp] theorem withCrch_txbuf (s : State) (c : Word) : (s.withCrch c).txbuf = s.txbuf := rfl
@[simp] theorem withCrch_txlen (s : State) (c : Word) : (s.withCrch c).txlen = s.txlen := rfl
@[simp] theorem withCrch_func (s : State) (c : Word) : (s.withCrch c).func = s.func := rfl
@[simp] theorem withCrch_addr (s : State) (c : Word) : (s.withCrch c).addr = s.addr := rfl
@[simp] theorem withCrch_count (s : State) (c : Word) : (s.withCrch c).count = s.count := rfl
@[simp] theorem withCrch_sel (s : State) (c : Word) : (s.withCrch c).sel = s.sel := rfl
@[simp] theorem withCrch_idx (s : State) (c : Word) : (s.withCrch c).idx = s.idx := rfl
@[simp] theorem withCrch_ph (s : State) (c : Word) : (s.withCrch c).ph = s.ph := rfl
@[simp] theorem withCrch_crcf (s : State) (c : Word) : (s.withCrch c).crcf = s.crcf := rfl
@[simp] theorem withCrch_crch (s : State) (c : Word) : (s.withCrch c).crch = c := rfl
@[simp] theorem withCrch_cfg (s : State) (c : Word) : (s.withCrch c).cfg = s.cfg := rfl
@[simp] theorem withCrch_inputs (s : State) (c : Word) : (s.withCrch c).inputs = s.inputs := rfl
@[simp] theorem withCrch_trace (s : State) (c : Word) : (s.withCrch c).trace = s.trace := rfl
@[simp] theorem withCrch_draws (s : State) (c : Word) : (s.withCrch c).draws = s.draws := rfl

/-! ## Derived views -/

@[simp] theorem observe_accAddr (e : Event) (s : State) : (observe e s).accAddr = s.accAddr := rfl
@[simp] theorem withCrch_crch_self (s : State) : s.withCrch s.crch = s := rfl

end Sys2Proof.Machine
end

