-- ==== Sys2Proof/Laws/Ops.lean ====
section
/-! SUPPORT. For each shared operation, what it does, said once. -/

namespace Sys2Proof.Machine

/-! ## The response path -/

/-- A response that fits TXBUF: TXBUF starts with the complete frame, the sink gets exactly that frame, CRCF holds its
CRC, PH is IDLE, and nothing else changes (R174, R175). -/
theorem emit_eq (bs : List Byte) (s : State) (h : bs.length + 2 ≤ s.txbuf.length) :
    emit bs s =
      { s with txbuf := overwrite s.txbuf (crcAppend bs), txlen := bs.length + 2, crcf := crc16 bs, ph := .idle,
               trace := s.trace ++ [.respond (crcAppend bs)] } := by
  have htake : (overwrite s.txbuf bs).take bs.length = bs := overwrite_take _ _ (by omega)
  have hset : ((overwrite s.txbuf bs).set bs.length (lo (crc16 bs))).set (bs.length + 1) (hi (crc16 bs)) =
      overwrite s.txbuf (crcAppend bs) := by
    rw [overwrite_set, show bs.length + 1 = (bs ++ [lo (crc16 bs)]).length by simp, overwrite_set]
    simp [crcAppend]
  have hfull : (overwrite s.txbuf (crcAppend bs)).take (bs.length + 2) = crcAppend bs := by
    have := overwrite_take s.txbuf (crcAppend bs) (by simpa using h)
    simpa using this
  simp only [emit, sendPhase, handOver, endTransaction, observe, appendCrc, buildTx, htake, hset, hfull]

/-- Whatever the response, only TXBUF, TXLEN, CRCF, PH and the trace change, and the trace by one hand-over. -/
theorem emit_frame (bs : List Byte) (s : State) :
    ∃ txbuf crcf frame, txbuf.length = s.txbuf.length ∧
      emit bs s = { s with txbuf := txbuf, txlen := bs.length + 2, crcf := crcf, ph := .idle,
                           trace := s.trace ++ [.respond frame] } :=
  ⟨_, _, _, by simp, rfl⟩

/-- Taking an exception (R171, R172, R198). -/
theorem raiseException_eq (code : ExcCode) (s : State) (h : 5 ≤ s.txbuf.length) :
    raiseException code s =
      let bs := exceptionBytes s.station (excFunc s.func) code
      { s with txbuf := overwrite s.txbuf (crcAppend bs), txlen := 5, crcf := crc16 bs, ph := .idle,
               trace := s.trace ++ [.respond (crcAppend bs)] } := by
  simp only [raiseException]
  rw [emit_eq _ _ (by simpa using h)]
  rfl

/-! ## Reception -/

@[simp] theorem receive_nil (s : State) : receive [] s = s := rfl

@[simp] theorem receive_cons (x : Byte) (bs : List Byte) (s : State) :
    receive (x :: bs) s = receive bs (receiveByte s x) := rfl

theorem receive_append (as bs : List Byte) (s : State) : receive (as ++ bs) s = receive bs (receive as s) := by
  simp [receive]

/-- Reception of a delivery (R131): bytes go to RXBUF from LEN on as far as it reaches, CRCF folds over all of them, LEN
counts them up to RXCAP; nothing else changes. -/
theorem receive_eq (bs : List Byte) (s : State) (hl : s.len ≤ s.cfg.rxcap) (hb : s.rxbuf.length = s.cfg.rxcap) :
    receive bs s =
      { s with rxbuf := s.rxbuf.take s.len ++ overwrite (s.rxbuf.drop s.len) bs, crcf := crcFrom s.crcf bs,
               len := min (s.len + bs.length) s.cfg.rxcap } := by
  induction bs generalizing s with
  | nil => simp [Nat.min_eq_left hl]
  | cons x bs ih =>
    have hb' : (receiveByte s x).rxbuf.length = (receiveByte s x).cfg.rxcap := by
      simp only [receiveByte_rxbuf, receiveByte_cfg]; split <;> simp [hb]
    rw [receive_cons, ih _ (by simp) hb']
    by_cases h : s.len < s.cfg.rxcap
    · have hlen : min (s.len + 1) s.cfg.rxcap = s.len + 1 := by omega
      have hd : s.rxbuf.drop s.len = s.rxbuf[s.len] :: s.rxbuf.drop (s.len + 1) := by
        rw [List.getElem_cons_drop]
      have hset : (s.rxbuf.set s.len x).take (s.len + 1) = s.rxbuf.take s.len ++ [x] := by
        rw [List.take_succ_eq_append_getElem (by simp; omega)]; simp [List.take_set_of_le]
      have hset' : (s.rxbuf.set s.len x).drop (s.len + 1) = s.rxbuf.drop (s.len + 1) := by
        rw [List.drop_set_of_lt (by omega)]
      simp only [receiveByte, if_pos h, hlen, hset, hset', hd, overwrite_cons, crcFrom_cons, List.append_assoc,
        List.singleton_append, List.length_cons]
      congr 1; omega
    · have hlen : s.len = s.cfg.rxcap := by omega
      have hd : s.rxbuf.drop s.len = [] := List.drop_eq_nil_of_le (by omega)
      have hd' : s.rxbuf.drop s.cfg.rxcap = [] := hlen ▸ hd
      simp only [receiveByte, if_neg h, crcFrom_cons, List.length_cons]
      simp only [hlen, hd', overwrite_nil_left, List.append_nil,
        show min (s.cfg.rxcap + 1) s.cfg.rxcap = s.cfg.rxcap by omega]
      congr 1; omega

/-- Reception of a whole frame (R131). -/
theorem receive_start_eq (f : List Byte) (s : State) (hb : s.rxbuf.length = s.cfg.rxcap) :
    receive f (startReception s) =
      { s with ph := .recv, rxbuf := overwrite s.rxbuf f, crcf := crc16 f, len := min f.length s.cfg.rxcap } := by
  rw [receive_eq _ _ (by simp) (by simpa using hb)]
  simp [startReception, crc16]

/-! ## The binding search -/

/-- A found index is the first that matches (R139). -/
theorem searchFrom_some {func : Byte} {addr count : Word} {k j : Nat} {bs : List Binding}
    (h : searchFrom func addr count k bs = some j) :
    ∃ i, j = k + i ∧ (∃ b, bs[i]? = some b ∧ b.matches func addr count = true) ∧
      ∀ i' < i, ∀ b, bs[i']? = some b → b.matches func addr count = false := by
  induction bs generalizing k with
  | nil => simp [searchFrom] at h
  | cons b bs ih =>
    simp only [searchFrom] at h
    split at h
    · rename_i hm
      exact ⟨0, by simpa using h.symm, ⟨b, by simp, hm⟩, by simp⟩
    · rename_i hm
      obtain ⟨i, rfl, ⟨b', hb', hm'⟩, hall⟩ := ih h
      refine ⟨i + 1, by omega, ⟨b', by simpa using hb', hm'⟩, ?_⟩
      intro i' hi' b'' hb''
      cases i' with
      | zero => simp at hb''; subst hb''; simpa using hm
      | succ i' => exact hall i' (by omega) b'' (by simpa using hb'')

/-- Nothing is found exactly when nothing matches (R141). -/
theorem searchFrom_none {func : Byte} {addr count : Word} {k : Nat} {bs : List Binding} :
    searchFrom func addr count k bs = none ↔ ∀ b ∈ bs, b.matches func addr count = false := by
  induction bs generalizing k with
  | nil => simp [searchFrom]
  | cons b bs ih =>
    simp only [searchFrom, List.mem_cons, forall_eq_or_imp]
    split <;> simp_all

/-- DECODE and MATCH of a request: the guard's exception, the search's exception, or service by the first match. -/
theorem guardAndSearch_cases (func : Byte) (addr count : Word) (serve : State → State) (s : State) :
    let s1 : State := { s with ph := .decode, func := func, addr := addr, count := count }
    let s2 : State := { s1 with ph := .matching }
    (s.cfg.maxReg.val < count.toNat ∧ guardAndSearch func addr count serve s = raiseException .illegalDataAddress s1) ∨
    (count.toNat ≤ s.cfg.maxReg.val ∧ s2.search = none ∧
      guardAndSearch func addr count serve s =
        raiseException .illegalDataAddress
          { s2 with sel := freeBelow s.draws (s.cfg.maxBind - 1), draws := s.draws + 1 }) ∨
    (∃ k, count.toNat ≤ s.cfg.maxReg.val ∧ s2.search = some k ∧
      guardAndSearch func addr count serve s = serve { s2 with sel := k }) := by
  intro s1 s2
  simp only [guardAndSearch]
  by_cases h : s.cfg.maxReg.val < count.toNat
  · exact .inl ⟨h, by rw [if_pos h]⟩
  · right
    rw [if_neg h]
    simp only [matchPhase]
    cases hs : s2.search with
    | none => exact .inl ⟨by omega, rfl, rfl⟩
    | some k => exact .inr ⟨k, by omega, rfl, rfl⟩

/-! ## The accessor loops -/

@[simp] theorem answerInputs_nil : answerInputs [] = [] := rfl

@[simp] theorem answerInputs_cons (p : Bool × Word) (as : List (Bool × Word)) :
    answerInputs (p :: as) = .answer p.1 p.2 :: answerInputs as := rfl

/-- What `as` answers leave behind after the read calls of a state (R151): the scratch entries from IDX on, IDX past the
successes, the calls in the trace. -/
def afterReads (as : List (Bool × Word)) (rest : List Input) (s : State) : State :=
  { s with inputs := rest, valbuf := s.valbuf.take s.idx ++ overwrite (s.valbuf.drop s.idx) (as.map (·.2)),
           idx := s.idx + successes as, trace := s.trace ++ readCalls s.sel s.accAddr as }

/-- What `as` answers leave behind after the write calls of a state (R163). -/
def afterWrites (as : List (Bool × Word)) (rest : List Input) (s : State) : State :=
  { s with inputs := rest, idx := s.idx + successes as,
           trace := s.trace ++ writeCalls s.sel s.accAddr (s.valbuf.drop s.idx) as }

theorem accAddr_idx_succ (s : State) : ({ s with idx := s.idx + 1 } : State).accAddr = s.accAddr + 1#16 := by
  simp only [State.accAddr, BitVec.ofNat_add, BitVec.add_assoc]

theorem ofNat_idx_succ (a : Word) (i : Nat) : a + BitVec.ofNat 16 (i + 1) = a + BitVec.ofNat 16 i + 1#16 := by
  rw [BitVec.ofNat_add, BitVec.add_assoc]

theorem take_set_succ {α : Type} (l : List α) (i : Nat) (x : α) (h : i < l.length) :
    (l.set i x).take (i + 1) = l.take i ++ [x] := by
  rw [List.take_succ_eq_append_getElem (by simpa using h)]; simp [List.take_set_of_le]

theorem drop_eq_getElem_cons {α : Type} (l : List α) (i : Nat) (h : i < l.length) :
    l.drop i = l[i] :: l.drop (i + 1) := by rw [List.getElem_cons_drop]

/-- A completed call followed by more answers is the calls of all of them. -/
theorem afterReads_cons (v : Word) (as : List (Bool × Word)) (rest more : List Input) (s : State)
    (h : s.idx < s.valbuf.length) :
    afterReads as rest
        { completeRead true v { s with inputs := more } with idx := (completeRead true v { s with inputs := more }).idx + 1 } =
      afterReads ((true, v) :: as) rest s := by
  simp only [afterReads, ofNat_idx_succ s.addr s.idx, completeRead, observe, take_set_succ _ _ _ h, List.map_cons, drop_eq_getElem_cons _ _ h,
    overwrite_cons, readCalls, successes, List.filter_cons_of_pos, List.length_cons, List.append_assoc,
    List.singleton_append, List.drop_set_of_lt (Nat.lt_succ_self s.idx), State.accAddr]
  congr 1; omega

/-- A failed call is the last. -/
theorem afterReads_fail (v : Word) (rest : List Input) (s : State) (h : s.idx < s.valbuf.length) :
    completeRead false v { s with inputs := rest } = afterReads [(false, v)] rest s := by
  simp only [afterReads, completeRead, observe, List.map_cons, List.map_nil, drop_eq_getElem_cons _ _ h, overwrite_cons,
    overwrite_nil_right, readCalls, successes, State.accAddr]
  simp [List.set_eq_take_append_cons_drop, h]

theorem afterReads_nil (s : State) : afterReads [] s.inputs s = s := by
  simp [afterReads, successes, readCalls]

/-- The read loop (R151, R152, R231), every case: the answers that are there end it and the response is sent, or they run
out and the block rests in RD behind the calls they completed. -/
theorem readLoop_cases (n : Nat) (s : State) (h : s.idx + n ≤ s.valbuf.length) :
    ∃ as rest, s.inputs = answerInputs as ++ rest ∧
      ((endsLoop n as = true ∧ readLoop n s = readResponse (afterReads as rest s)) ∨
       (allOk as ∧ as.length < n ∧ NoAnswer rest ∧ readLoop n s = afterReads as rest s)) := by
  induction n generalizing s with
  | zero => exact ⟨[], s.inputs, rfl, .inl ⟨rfl, by rw [afterReads_nil]; rfl⟩⟩
  | succ n ih =>
    have hidx : s.idx < s.valbuf.length := by omega
    by_cases hin : ∃ ok v more, s.inputs = .answer ok v :: more
    · obtain ⟨ok, v, more, hin⟩ := hin
      cases ok with
      | false =>
        refine ⟨[(false, v)], more, by simpa using hin, .inl ⟨rfl, ?_⟩⟩
        rw [← afterReads_fail v more s hidx]; simp [readLoop, hin]
      | true =>
        have hs : readLoop (n + 1) s = readLoop n
            { completeRead true v { s with inputs := more } with
              idx := (completeRead true v { s with inputs := more }).idx + 1 } := by simp [readLoop, hin]
        obtain ⟨as, rest, hr, hc⟩ := ih
          { completeRead true v { s with inputs := more } with
            idx := (completeRead true v { s with inputs := more }).idx + 1 } (by simp; omega)
        refine ⟨(true, v) :: as, rest, by simp at hr; simp [hin, hr], ?_⟩
        rw [hs]
        rcases hc with ⟨he, hc⟩ | ⟨hok, hlt, hno, hc⟩
        · exact .inl ⟨by simpa [endsLoop] using he, by rw [hc, afterReads_cons _ _ _ _ _ hidx]⟩
        · exact .inr ⟨by simpa [allOk] using hok, by simpa using hlt, hno, by
            rw [hc, afterReads_cons _ _ _ _ _ hidx]⟩
    · refine ⟨[], s.inputs, rfl, .inr ⟨by simp [allOk], by simp, ?_, ?_⟩⟩
      · intro ok v more hm; exact hin ⟨ok, v, more, hm⟩
      · rw [afterReads_nil]
        simp only [readLoop]
        split
        · rename_i ok v more hm; exact absurd ⟨ok, v, more, hm⟩ hin
        · rfl

/-- The read loop on answers that end it. -/
theorem readLoop_ends (n : Nat) (as : List (Bool × Word)) (rest : List Input) (s : State)
    (h : s.idx + n ≤ s.valbuf.length) (hin : s.inputs = answerInputs as ++ rest) (he : endsLoop n as = true) :
    readLoop n s = readResponse (afterReads as rest s) := by
  induction n generalizing s as with
  | zero =>
    cases as with
    | nil => simp at hin; subst hin; rw [afterReads_nil]; rfl
    | cons p as => simp [endsLoop] at he
  | succ n ih =>
    have hidx : s.idx < s.valbuf.length := by omega
    match as, he with
    | (true, v) :: as, he =>
      have hin' : s.inputs = .answer true v :: (answerInputs as ++ rest) := by simpa using hin
      rw [← afterReads_cons v as rest (answerInputs as ++ rest) s hidx]
      rw [← ih as _ (by simp; omega) (by simp) (by simpa [endsLoop] using he)]
      simp [readLoop, hin']
    | [(false, v)], _ =>
      have hin' : s.inputs = .answer false v :: rest := by simpa using hin
      rw [← afterReads_fail v rest s hidx]; simp [readLoop, hin']

theorem afterWrites_cons (v : Word) (as : List (Bool × Word)) (rest more : List Input) (s : State)
    (h : s.idx < s.valbuf.length) :
    afterWrites as rest
        { completeWrite true { s with inputs := more } with idx := (completeWrite true { s with inputs := more }).idx + 1 } =
      afterWrites ((true, v) :: as) rest s := by
  have hg : s.valbuf.getD s.idx 0 = s.valbuf[s.idx] := by simp [h]
  simp only [afterWrites, ofNat_idx_succ s.addr s.idx, completeWrite, observe, drop_eq_getElem_cons _ _ h, writeCalls, successes,
    List.filter_cons_of_pos, List.length_cons, List.append_assoc, List.singleton_append, State.accAddr, hg]
  congr 1; omega

theorem afterWrites_fail (v : Word) (rest : List Input) (s : State) (h : s.idx < s.valbuf.length) :
    completeWrite false { s with inputs := rest } = afterWrites [(false, v)] rest s := by
  have hg : s.valbuf.getD s.idx 0 = s.valbuf[s.idx] := by simp [h]
  have hn : ∀ k a vs, writeCalls k a vs [] = [] := by intro k a vs; cases vs <;> rfl
  simp only [afterWrites, completeWrite, observe, drop_eq_getElem_cons _ _ h, writeCalls, successes, hg, hn]
  rfl

theorem afterWrites_nil (s : State) : afterWrites [] s.inputs s = s := by
  have : ∀ vs, writeCalls s.sel s.accAddr vs [] = [] := by intro vs; cases vs <;> rfl
  simp [afterWrites, successes, this]

/-- The write loop (R163, R231), every case. -/
theorem writeLoop_cases (n : Nat) (s : State) (h : s.idx + n ≤ s.valbuf.length) :
    ∃ as rest, s.inputs = answerInputs as ++ rest ∧
      ((endsLoop n as = true ∧ writeLoop n s = writeAck (afterWrites as rest s)) ∨
       (allOk as ∧ as.length < n ∧ NoAnswer rest ∧ writeLoop n s = afterWrites as rest s)) := by
  induction n generalizing s with
  | zero => exact ⟨[], s.inputs, rfl, .inl ⟨rfl, by rw [afterWrites_nil]; rfl⟩⟩
  | succ n ih =>
    have hidx : s.idx < s.valbuf.length := by omega
    by_cases hin : ∃ ok v more, s.inputs = .answer ok v :: more
    · obtain ⟨ok, v, more, hin⟩ := hin
      cases ok with
      | false =>
        refine ⟨[(false, v)], more, by simpa using hin, .inl ⟨rfl, ?_⟩⟩
        rw [← afterWrites_fail v more s hidx]; simp [writeLoop, hin]
      | true =>
        have hs : writeLoop (n + 1) s = writeLoop n
            { completeWrite true { s with inputs := more } with
              idx := (completeWrite true { s with inputs := more }).idx + 1 } := by simp [writeLoop, hin]
        obtain ⟨as, rest, hr, hc⟩ := ih
          { completeWrite true { s with inputs := more } with
            idx := (completeWrite true { s with inputs := more }).idx + 1 } (by simp; omega)
        refine ⟨(true, v) :: as, rest, by simp at hr; simp [hin, hr], ?_⟩
        rw [hs]
        rcases hc with ⟨he, hc⟩ | ⟨hok, hlt, hno, hc⟩
        · exact .inl ⟨by simpa [endsLoop] using he, by rw [hc, afterWrites_cons v _ _ _ _ hidx]⟩
        · exact .inr ⟨by simpa [allOk] using hok, by simpa using hlt, hno, by
            rw [hc, afterWrites_cons v _ _ _ _ hidx]⟩
    · refine ⟨[], s.inputs, rfl, .inr ⟨by simp [allOk], by simp, ?_, ?_⟩⟩
      · intro ok v more hm; exact hin ⟨ok, v, more, hm⟩
      · rw [afterWrites_nil]
        simp only [writeLoop]
        split
        · rename_i ok v more hm; exact absurd ⟨ok, v, more, hm⟩ hin
        · rfl

/-- The write loop on answers that end it. -/
theorem writeLoop_ends (n : Nat) (as : List (Bool × Word)) (rest : List Input) (s : State)
    (h : s.idx + n ≤ s.valbuf.length) (hin : s.inputs = answerInputs as ++ rest) (he : endsLoop n as = true) :
    writeLoop n s = writeAck (afterWrites as rest s) := by
  induction n generalizing s as with
  | zero =>
    cases as with
    | nil => simp at hin; subst hin; rw [afterWrites_nil]; rfl
    | cons p as => simp [endsLoop] at he
  | succ n ih =>
    have hidx : s.idx < s.valbuf.length := by omega
    match as, he with
    | (true, v) :: as, he =>
      have hin' : s.inputs = .answer true v :: (answerInputs as ++ rest) := by simpa using hin
      rw [← afterWrites_cons v as rest (answerInputs as ++ rest) s hidx]
      rw [← ih as _ (by simp; omega) (by simp) (by simpa [endsLoop] using he)]
      simp [writeLoop, hin']
    | [(false, v)], _ =>
      have hin' : s.inputs = .answer false v :: rest := by simpa using hin
      rw [← afterWrites_fail v rest s hidx]; simp [writeLoop, hin']

end Sys2Proof.Machine
end

