-- ==== Sys2Proof/Laws/PerInstr.lean ====
section
/-! SUPPORT. What is said of every instruction as syntax, one lemma per constructor. -/

namespace Sys2Proof.Laws.KeyMatch

/-- The code of an encodable instruction has the key its row of spec/opcode_table.json asks for: `key & mask == match`
(R93). -/
def Statement (i : Instr) : Prop := i.encodable = true → (encode i).key &&& i.row.2 = i.row.1

theorem be16_mask (h l : Byte) : (be16 h l).toNat &&& 0x00FF = l.toNat := by
  have := l.isLt
  rw [show (0x00FF : Nat) = 2 ^ 8 - 1 from rfl, Nat.and_two_pow_sub_one_eq_mod, be16_toNat]; omega

theorem be16_bit7 (h l : Byte) (hl : l.getLsbD 7 = true) : (be16 h l).toNat &&& 0x0080 = 0x0080 := by
  have : (be16 h l) &&& 0x0080#16 = 0x0080#16 := by
    simp only [be16]; ext i hi
    simp only [BitVec.getElem_and, BitVec.getElem_append]
    have : i < 16 := hi
    interval_cases i <;> simp [hl]
  simpa using congrArg BitVec.toNat this

theorem rhr (a : Byte) (b c : Word) (d : List Byte) : Statement (.rhr a b c d) := fun _ => be16_mask a 0x03#8
theorem wmr (a : Byte) (b c : Word) (d : List Byte) : Statement (.wmr a b c d) := fun _ => be16_mask a 0x10#8
theorem illfn (a b : Byte) (c : List Byte) : Statement (.illfn a b c) := fun _ => Nat.and_zero _
theorem rspR (a : Byte) (b : List Word) : Statement (.rspR a b) := fun _ => be16_mask a 0x03#8
theorem rspW (a : Byte) (b c : Word) : Statement (.rspW a b c) := fun _ => be16_mask a 0x10#8
theorem rspE (a b : Byte) (c : ExcCode) : Statement (.rspE a b c) := fun h => be16_bit7 a b h
theorem reset : Statement .reset := by unfold Statement; decide
theorem config (a : Byte) : Statement (.config a) := by
  intro _; simp [encode, Code.key, Instr.row, PortEdge.quiet]
theorem register (a b : Word) (c d : Bool) : Statement (.register a b c d) := by
  intro _; simp [encode, Code.key, Instr.row, PortEdge.quiet]
theorem process (a : List Byte) (b : Bool) : Statement (.process a b) := by
  intro _; simp [encode, Code.key, Instr.row, PortEdge.quiet]
theorem crcInit : Statement .crcInit := by unfold Statement; decide
theorem crcByte (a : Byte) : Statement (.crcByte a) := by
  intro _; simp [encode, Code.key, Instr.row, PortEdge.quiet]
theorem crcRead : Statement .crcRead := by unfold Statement; decide

end Sys2Proof.Laws.KeyMatch
end

