-- ==== Sys2Proof/Tests/Slice0.lean ====
section
/-! SUPPORT. Tests on fixed values, each from spec/ (its rule or its vector of spec/95_test_vectors.md is named), and a
witness for the hypotheses of every obligation that has hypotheses. -/

namespace Sys2Proof.Tests

open Sys2Proof Sys2Proof.Machine

set_option Elab.async false

/-! ## Helpers -/

/-- The next state of a result, if there is one. -/
def out : Result → Option State
  | .next t => some t
  | .fault _ => none
  | .refused _ => none

theorem next_of_out {r : Result} (h : (out r).isSome = true) : ∃ t, r = .next t := by
  cases r with
  | next t => exact ⟨t, rfl⟩
  | fault _ => cases h
  | refused _ => cases h

/-- STATION 0x11 and the given bindings, MAXREG = 4 and MAXBIND = 4, with these moves of the outside world to come. -/
def conf (bs : List Binding) (inputs : List Input) : State :=
  { State.reset with station := 0x11#8, nb := bs.length, binds := overwrite State.reset.binds bs, inputs := inputs }

/-- Configuration A of spec/95_test_vectors.md: `REGISTER 0x0000, 4, r`. -/
def confA (inputs : List Input) : State := conf [{ base := 0, cnt := 4, hr := true, hw := false }] inputs

/-- Configuration B of spec/95_test_vectors.md: `REGISTER 0x0000, 4, rw`. -/
def confB (inputs : List Input) : State := conf [{ base := 0, cnt := 4, hr := true, hw := true }] inputs

/-- Configuration C of spec/95_test_vectors.md: three overlapping bindings. -/
def confC (inputs : List Input) : State :=
  conf [{ base := 0, cnt := 8, hr := false, hw := true }, { base := 2, cnt := 2, hr := true, hw := true },
        { base := 0, cnt := 4, hr := true, hw := false }] inputs

/-- Configuration B with a call outstanding: a read of 2 registers at address 0 has its first answer. -/
def confB_reading (inputs : List Input) : State :=
  { confB inputs with ph := .rd, func := 0x03, addr := 0, count := 2, sel := 0, idx := 1 }

/-- Configuration B with a call outstanding: a write of 2 registers at address 0 has its first answer. -/
def confB_writing (inputs : List Input) : State :=
  { confB inputs with ph := .wr, func := 0x10, addr := 0, count := 2, sel := 0, idx := 1 }

/-- The read request of V3. -/
def frameV3 : List Byte := [0x11, 0x03, 0x00, 0x00, 0x00, 0x02, 0xC6, 0x9B]

/-- The write request of V5. -/
def frameV5 : List Byte := [0x11, 0x10, 0x00, 0x00, 0x00, 0x02, 0x04, 0x00, 0x05, 0x00, 0x06, 0x37, 0x6C]

/-! ## Well-formed and ill-formed terms, one for each check -/

theorem test_wellFormed_accepts :
    (Instr.rhr 0x11 0 2 [0xC6, 0x9B]).wellFormed = true ∧
    (Instr.wmr 0x11 0 2 [0x04, 0x00, 0x05, 0x00, 0x06, 0x37, 0x6C]).wellFormed = true ∧
    (Instr.illfn 0x11 0x06 [0x00, 0x01, 0x00, 0x03, 0x9A, 0x9B]).wellFormed = true ∧
    (Instr.rspE 0x11 0x83 .illegalDataAddress).wellFormed = true ∧
    (Instr.process [0x00] true).wellFormed = true := by decide +kernel

theorem test_wellFormed_refuses_short_read : (Instr.rhr 0x11 0 2 []).wellFormed = false := by decide +kernel
theorem test_wellFormed_refuses_short_write : (Instr.wmr 0x11 0 0 []).wellFormed = false := by decide +kernel
theorem test_wellFormed_refuses_bad_crc :
    (Instr.rhr 0x11 0 2 [0xC7, 0x9B]).wellFormed = false ∧ (Instr.wmr 0x11 0 0 [0x00, 0x18, 0x92]).wellFormed = false ∧
    (Instr.illfn 0x11 0x06 [0x00, 0x01, 0x00, 0x03, 0x9A, 0x1B]).wellFormed = false := by decide +kernel
theorem test_wellFormed_refuses_served_function_as_illfn :
    (Instr.illfn 0x11 0x03 [0x00, 0x00, 0x00, 0x02, 0xC6, 0x9B]).wellFormed = false ∧
    (Instr.illfn 0x11 0x10 [0x00, 0x00, 0x00, 0x00, 0x00, 0x18, 0x91]).wellFormed = false := by decide +kernel
/-- The six bytes of V18 are intact and too short. -/
theorem test_wellFormed_refuses_short_illfn : (Instr.illfn 0x11 0x06 [0x00, 0x01, 0x24, 0xD9]).wellFormed = false := by
  decide +kernel
theorem test_wellFormed_refuses_long_read_response :
    (Instr.rspR 0x11 (List.replicate 128 0)).wellFormed = false := by decide +kernel
theorem test_wellFormed_refuses_clear_bit7 : (Instr.rspE 0x11 0x06 .illegalFunction).wellFormed = false := by
  decide +kernel
theorem test_wellFormed_refuses_address_code_for_other_function :
    (Instr.rspE 0x11 0x86 .illegalDataAddress).wellFormed = false := by decide +kernel
theorem test_wellFormed_refuses_empty_delivery : (Instr.process [] true).wellFormed = false := by decide +kernel

/-! ## Decoding, word by word from the encodings of R81 to R86 and R92 -/

/-- R81, V3. -/
theorem test_decode_rhr : decode (.request frameV3) = .ok (.rhr 0x11 0x0000 0x0002 [0xC6, 0x9B]) := by decide +kernel

/-- R136: bytes `00 6B 00 03` give ADDR = 0x006B and COUNT = 3. -/
theorem test_decode_rhr_operand_order :
    decode (.request [0x11, 0x03, 0x00, 0x6B, 0x00, 0x03, 0, 0]) = .ok (.rhr 0x11 0x006B 3 [0, 0]) := by decide +kernel

/-- R82, V5. -/
theorem test_decode_wmr :
    decode (.request frameV5) = .ok (.wmr 0x11 0x0000 0x0002 [0x04, 0x00, 0x05, 0x00, 0x06, 0x37, 0x6C]) := by
  decide +kernel

/-- R83, V19: a 7-byte frame. -/
theorem test_decode_illfn :
    decode (.request [0x11, 0x06, 0x00, 0x01, 0x00, 0xD9, 0x1B]) =
      .ok (.illfn 0x11 0x06 [0x00, 0x01, 0x00, 0xD9, 0x1B]) := by decide +kernel

/-- R84, the response of V3. -/
theorem test_decode_rspR :
    decode (.response [0x11, 0x03, 0x04, 0x00, 0x00, 0x00, 0x0A, 0x6B, 0xF5]) = .ok (.rspR 0x11 [0x0000, 0x000A]) := by
  decide +kernel

/-- R85, the acknowledgement of V27. -/
theorem test_decode_rspW :
    decode (.response [0x11, 0x10, 0x00, 0x02, 0x00, 0x01, 0xA2, 0x99]) = .ok (.rspW 0x11 0x0002 0x0001) := by
  decide +kernel

/-- R86, the exceptions of V4 and V29. -/
theorem test_decode_rspE :
    decode (.response [0x11, 0x86, 0x01, 0x82, 0x65]) = .ok (.rspE 0x11 0x86 .illegalFunction) ∧
    decode (.response [0x11, 0x90, 0x02, 0xCC, 0x04]) = .ok (.rspE 0x11 0x90 .illegalDataAddress) := by decide +kernel

/-- R92, R93: `rst` is bit 5 and excludes every other strobe. -/
theorem test_decode_reset :
    decode (.port { PortEdge.quiet with strobes := 0b100000 }) = .ok .reset ∧
    decode (.port { PortEdge.quiet with strobes := 0b111111 }) = .ok .reset := by decide +kernel

/-- R92: `cfg_station_we` is bit 4. -/
theorem test_decode_config :
    decode (.port { PortEdge.quiet with strobes := 0b010000, cfgStation := 0x11 }) = .ok (.config 0x11) := by
  decide +kernel

/-- R92: `cfg_reg_valid` is bit 3. -/
theorem test_decode_register :
    decode (.port { PortEdge.quiet with strobes := 0b001000, cfgBase := 0x0100, cfgCount := 2, cfgHasRead := true }) =
      .ok (.register 0x0100 2 true false) := by decide +kernel

/-- R92: `rx_valid` is bit 2. -/
theorem test_decode_process :
    decode (.port { PortEdge.quiet with strobes := 0b000100, rxData := frameV3, rxLast := true }) =
      .ok (.process frameV3 true) := by decide +kernel

/-- R92: `crc_init` is bit 1, `crc_en` bit 0, CRC.READ has no strobe. -/
theorem test_decode_crc :
    decode (.port { PortEdge.quiet with strobes := 0b000010 }) = .ok .crcInit ∧
    decode (.port { PortEdge.quiet with strobes := 0b000001, crcDin := 0x5A }) = .ok (.crcByte 0x5A) ∧
    decode (.port PortEdge.quiet) = .ok .crcRead := by decide +kernel

/-- Refusals, each by its name. -/
theorem test_decode_refuses :
    decode (.request [0x11, 0x06, 0x00, 0x01, 0x24, 0xD9]) = .error .requestTooShort ∧
    decode (.response [0x11, 0x86, 0x01, 0x82]) = .error .responseTooShort ∧
    decode (.response [0x11, 0x86, 0x01, 0x82, 0x64]) = .error .responseBadCrc ∧
    decode (.response (crcAppend [0x11, 0x06, 0x01])) = .error .responseUnknownFunction ∧
    decode (.response (crcAppend [0x11, 0x03, 0x03, 0x00, 0x01, 0x02])) = .error .responseWrongLength ∧
    decode (.response (crcAppend [0x11, 0x86, 0x03])) = .error .responseUnknownCode := by decide +kernel

/-! ## The CRC Engine -/

/-- V1, V11, V14. -/
theorem test_crc16 :
    crc16 [0x01, 0x03, 0x00, 0x00, 0x00, 0x01] = 0x0A84 ∧ crc16 [] = 0xFFFF ∧ crc16 [0xFF] = 0x00FF ∧
    crc16 [0x31, 0x32, 0x33, 0x34, 0x35, 0x36, 0x37, 0x38, 0x39] = 0x4B37 := by decide +kernel

/-- V12, V13. -/
theorem test_crcByte_values :
    crcBit 0xFFFF true = 0x7FFF ∧ crcBit 0x7FFF false = 0x9FFE ∧ crcByte 0xFFFF 0x01 = 0x807E ∧
    crcByte 0 0x01 = 0xC0C1 ∧ crcByte 0 0x80 = 0xA001 := by decide +kernel

/-- V15, its last line. -/
theorem test_crcInit : (out (exec .crcInit { State.reset with crch := 0x1234 })).map (·.crch) = some 0xFFFF := by
  decide +kernel

/-- V15, the first two lines: right after reset no CRC.INIT is needed. -/
theorem test_crcByte :
    (out (exec (.crcByte 0x11) State.reset)).map (·.crch) = some 0x4C7F ∧
    (out (exec (.crcByte 0x03) { State.reset with crch := 0x4C7F })).map (·.crch) = some 0xE14D := by decide +kernel

/-- V15: CRC.READ of 0x0000 has `crc_zero = 1`. -/
theorem test_crcRead :
    (out (exec .crcRead { State.reset with crch := 0 })).map (·.trace) = some [.crcRead 0 true] ∧
    (out (exec .crcRead { State.reset with crch := 0x9BC6 })).map (·.trace) = some [.crcRead 0x9BC6 false] := by
  decide +kernel

/-! ## Reset and configuration -/

/-- R180: in mid-transaction. -/
theorem test_reset :
    (out (exec .reset (confB_reading []))).map (fun t => (t.ph, t.nb, t.crch, t.trace)) =
      some (.idle, 0, 0xFFFF, []) := by decide +kernel

theorem test_config : (out (exec (.config 0x11) State.reset)).map (·.station) = some 0x11 := by decide +kernel

/-- P1's registration. -/
theorem test_register :
    (out (exec (.register 0x0000 4 true false) State.reset)).map (fun t => (t.nb, t.binds[0]?)) =
      some (1, some { base := 0, cnt := 4, hr := true, hw := false }) := by decide +kernel

/-- P3's rejections: no register, no accessor, a full table. -/
theorem test_register_rejects :
    out (exec (.register 0x0100 0 true true) State.reset) = some State.reset ∧
    out (exec (.register 0x0100 2 false false) State.reset) = some State.reset ∧
    out (exec (.register 0x0300 1 true true) { confC [] with nb := 4 }) = some { confC [] with nb := 4 } := by
  decide +kernel

/-! ## Requests -/

/-- V3: the accessor calls, the response and the state left. -/
theorem test_process_read :
    (out (exec (.process frameV3 true) (confA [.answer true 0x0000, .answer true 0x000A]))).map
        (fun t => (t.trace, t.valbuf.take 2, t.ph)) =
      some ([.accRead 0 0x0000 true 0x0000, .accRead 0 0x0001 true 0x000A,
             .respond [0x11, 0x03, 0x04, 0x00, 0x00, 0x00, 0x0A, 0x6B, 0xF5]], [0x0000, 0x000A], .idle) := by
  decide +kernel

/-- V7 and V18: dropped. -/
theorem test_process_drops :
    (out (exec (.process [0x11, 0x03, 0x00, 0x00, 0x00, 0x02, 0xC7, 0x9B] true) (confA []))).map
      (fun t => (t.ph, t.trace)) = some (.idle, []) ∧
    (out (exec (.process [0x11, 0x06, 0x00, 0x01, 0x24, 0xD9] true) (confA []))).map (fun t => (t.ph, t.trace, t.len)) =
      some (.idle, [], 6) := by decide +kernel

/-- V26: the first binding that covers the address lacks the accessor. -/
theorem test_rhr_first_match :
    (out (exec (.rhr 0x11 0x0002 1 [0x27, 0x5A]) (confC [.answer true 0xBEEF]))).map (·.trace) =
      some [.accRead 1 0x0002 true 0xBEEF, .respond [0x11, 0x03, 0x02, 0xBE, 0xEF, 0x49, 0xAB]] := by decide +kernel

/-- V33: a failing read ends the loop and keeps its own answer. The response has its full length. -/
theorem test_rhr_accessor_fails :
    (out (exec (.rhr 0x11 0 3 [0x07, 0x5B])
        { confB [.answer true 0x00AA, .answer false 0x1234] with valbuf := [5, 6, 0xEEEE, 0xEEEE] })).map
        (fun t => (t.trace.take 2, t.valbuf, t.txlen)) =
      some ([.accRead 0 0x0000 true 0x00AA, .accRead 0 0x0001 false 0x1234], [0x00AA, 0x1234, 0xEEEE, 0xEEEE], 11) := by
  decide +kernel

/-- V35: a failing write ends the loop. The acknowledgement is sent and claims three registers. -/
theorem test_wmr_accessor_fails :
    (out (exec (.wmr 0x11 0 3 [0x06, 0x00, 0x01, 0x00, 0x02, 0x00, 0x03, 0x04, 0x11])
        (confB [.answer true 0, .answer false 0]))).map (fun t => (t.trace, t.valbuf.take 3)) =
      some ([.accWrite 0 0x0000 0x0001 true, .accWrite 0 0x0001 0x0002 false,
             .respond [0x11, 0x10, 0x00, 0x00, 0x00, 0x03, 0x82, 0x98]], [1, 2, 3]) := by decide +kernel

/-- V36: a frame too short for its count gives its own CRC bytes as a value. -/
theorem test_wmr_short_frame :
    (out (exec (.wmr 0x11 0 2 [0x04, 0x00, 0x05, 0x4B, 0xD6]) (confB [.answer true 0, .answer true 0]))).map (·.trace) =
      some [.accWrite 0 0x0000 0x0005 true, .accWrite 0 0x0001 0x4BD6 true,
            .respond [0x11, 0x10, 0x00, 0x00, 0x00, 0x02, 0x43, 0x58]] := by decide +kernel

/-- V4 and the last line but one of V24: bit 7 is restated. -/
theorem test_illfn :
    (out (exec (.illfn 0x11 0x06 [0x00, 0x01, 0x00, 0x03, 0x9A, 0x9B]) (confA []))).map (·.trace) =
      some [.respond [0x11, 0x86, 0x01, 0x82, 0x65]] ∧
    (out (exec (.illfn 0x11 0x83 [0x00, 0x01, 0x00, 0x00, 0x17, 0x44]) (confA []))).map (·.trace) =
      some [.respond [0x11, 0x83, 0x01, 0x81, 0x35]] := by decide +kernel

/-! ## Responses -/

/-- The response of V10, and one value more than MAXREG. -/
theorem test_rspR :
    (out (exec (.rspR 0x11 [0x0032]) (confA []))).map (·.trace) =
      some [.respond [0x11, 0x03, 0x02, 0x00, 0x32, 0xF8, 0x52]] ∧
    out (exec (.rspR 0x11 [1, 2, 3, 4, 5]) (confA [])) = none := by decide +kernel

/-- The acknowledgement of V38. -/
theorem test_rspW :
    (out (exec (.rspW 0x11 0x0001 0x0001) (confA []))).map (·.trace) =
      some [.respond [0x11, 0x10, 0x00, 0x01, 0x00, 0x01, 0x52, 0x99]] := by decide +kernel

/-- The exception of V8. -/
theorem test_rspE :
    (out (exec (.rspE 0x11 0x83 .illegalDataAddress) (confA []))).map (fun t => (t.trace, t.txlen, t.crcf)) =
      some ([.respond [0x11, 0x83, 0x02, 0xC1, 0x34]], 5, 0x34C1) := by decide +kernel

/-! ## One step -/

/-- U5: a call that is never answered leaves the block stuck, and RESET ends it (R231). -/
theorem test_step_stuck_until_reset :
    out (step (confB_reading [])) = none ∧
    (out (step (confB_reading [.edge { PortEdge.quiet with strobes := 0b100000 }]))).map (·.ph) = some .idle := by
  decide +kernel

/-- U3: the predicate flags the run of V35 and not that of V36. -/
theorem test_accessorFailedSilently :
    accessorFailedSilently [.accWrite 0 0x0000 0x0001 true, .accWrite 0 0x0001 0x0002 false, .respond []] = true ∧
    accessorFailedSilently [.accWrite 0 0x0000 0x0005 true, .accWrite 0 0x0001 0x4BD6 true, .respond []] = false := by
  decide +kernel

/-! ## Witnesses: a state and operands that meet the hypotheses of each obligation -/

theorem sized_conf (inputs : List Input) : (confA inputs).Sized ∧ (confB inputs).Sized ∧ (confC inputs).Sized := by
  refine ⟨⟨rfl, ?_, ?_, rfl, rfl, rfl⟩, ⟨rfl, ?_, ?_, rfl, rfl, rfl⟩, ⟨rfl, ?_, ?_, rfl, rfl, rfl⟩⟩ <;>
    simp [confA, confB, confC, conf, State.reset, State.resetOf, resetConfig, overwrite, List.replicate, Binding.valid]

theorem inv_confA (inputs : List Input) : (confA inputs).Inv :=
  ⟨(sized_conf inputs).1, trivial, by intro b hb; exact absurd hb (by simp [confA, conf, State.reset, State.resetOf])⟩

theorem inv_waiting (inputs : List Input) : (confB_reading inputs).Inv ∧ (confB_writing inputs).Inv := by
  have hs := (sized_conf inputs).2.1
  refine ⟨⟨⟨hs.1, hs.2, hs.3, hs.4, hs.5, hs.6⟩, ⟨rfl, ⟨?_, ?_, ?_⟩⟩, ?_⟩,
    ⟨⟨hs.1, hs.2, hs.3, hs.4, hs.5, hs.6⟩, ⟨rfl, ⟨?_, ?_, ?_⟩⟩, ?_⟩⟩
  all_goals first
    | (intro b hb; exact absurd hb (by simp [confB_reading, confB_writing, confB, conf, State.reset, State.resetOf]))
    | rfl
    | exact Nat.le_of_ble_eq_true rfl

theorem witness_config : State.reset.ph = .idle := rfl

theorem witness_register :
    State.reset.Sized ∧ State.reset.ph = .idle ∧ (4#16 : Word) ≠ 0#16 ∧ (true = true ∨ false = true) ∧
      State.reset.nb ≠ State.reset.cfg.maxBind :=
  ⟨⟨rfl, by decide, by decide, rfl, rfl, rfl⟩, rfl, by decide, .inl rfl, by decide⟩

/-- The last free entry of the table: NB = MAXBIND - 1. -/
theorem witness_register_last_entry :
    (confC []).Sized ∧ (confC []).nb ≠ (confC []).cfg.maxBind ∧ (confC []).nb + 1 = (confC []).cfg.maxBind :=
  ⟨(sized_conf []).2.2, by decide, rfl⟩

theorem witness_misuse : (confB_reading []).busy = true ∧ (confB_reading []).ph ≠ .recv := by decide

/-- Each side of each condition of `admits`. -/
theorem witness_admits :
    State.reset.admits (.process [] true) = true ∧ ({ State.reset with ph := .recv } : State).admits (.process [] true) = true ∧
    (confB_reading []).admits (.process [] true) = false ∧ State.reset.admits (.config 0) = true ∧
    (confB_reading []).admits (.config 0) = false ∧ State.reset.admits (.register 0 0 true true) = true ∧
    (confB_reading []).admits (.register 0 0 true true) = false ∧ State.reset.admits (.rspR 0 [1, 2, 3, 4]) = true ∧
    State.reset.admits (.rspR 0 [1, 2, 3, 4, 5]) = false := by decide

/-- The first, a middle and the last byte of a frame. -/
theorem witness_single_byte :
    (confA []).Sized ∧ (confA []).ph = .idle ∧ (confA []).accepts ([] ++ 0x11#8 :: frameV3.drop 1) = true ∧
    (confA []).accepts (frameV3.take 5 ++ 0x02#8 :: frameV3.drop 6) = true ∧
    (confA []).accepts (frameV3.take 7 ++ 0x9B#8 :: []) = true ∧ (0x02#8 : Byte) ≠ 0x03#8 :=
  ⟨(sized_conf []).1, rfl, by decide +kernel, by decide +kernel, by decide +kernel, by decide⟩

/-- A frame shorter than RXCAP, and one of the 28 bytes of V23, longer than it. -/
theorem witness_reception :
    (confA []).Sized ∧ (confA []).ph = .idle ∧ frameV3 ≠ [] ∧ frameV3.length < (confA []).cfg.rxcap ∧
    (confA []).cfg.rxcap < (List.replicate 28 (0xAA#8 : Byte)).length :=
  ⟨(sized_conf []).1, rfl, by decide, by decide, by decide⟩

theorem witness_deliveries :
    (confA []).ph = .idle ∧ ({ confA [] with ph := .recv } : State).ph = .recv ∧ frameV3.take 3 ≠ [] ∧
    frameV3.drop 3 ≠ [] := ⟨rfl, rfl, by decide, by decide⟩

theorem witness_empty_delivery : (confA []).ph = .idle ∧ ({ confA [] with ph := .recv } : State).ph = .recv := ⟨rfl, rfl⟩

/-- One witness for each reason to drop: the six bytes of V18, the station of V6, the CRC of V7. -/
theorem witness_rejected :
    (confA []).Sized ∧ (confA []).ph = .idle ∧ [0x11, 0x06, 0x00, 0x01, 0x24, 0xD9#8].length < 7 ∧
    ([0x12, 0x03, 0x00, 0x00, 0x00, 0x02, 0xC6, 0xA8] : List Byte)[0]? ≠ some (confA []).station ∧
    crc16 [0x11, 0x03, 0x00, 0x00, 0x00, 0x02, 0xC7, 0x9B] ≠ 0x0000#16 :=
  ⟨(sized_conf []).1, rfl, by decide, by decide, by decide +kernel⟩

/-- Accepted frames: V3, V5, V4 and the shortest, V19. -/
theorem witness_accepted :
    (confA []).Sized ∧ (confA []).ph = .idle ∧ (confA []).accepts frameV3 = true ∧ (confA []).accepts frameV5 = true ∧
    (confA []).accepts [0x11, 0x06, 0x00, 0x01, 0x00, 0x03, 0x9A, 0x9B] = true ∧
    (confA []).accepts [0x11, 0x06, 0x00, 0x01, 0x00, 0xD9, 0x1B] = true :=
  ⟨(sized_conf []).1, rfl, by decide +kernel, by decide +kernel, by decide +kernel, by decide +kernel⟩

/-- Encodable instructions at the ends of their operands' ranges. -/
theorem witness_encodable :
    (Instr.rhr 0xFF 0xFFFF 0xFFFF [0]).encodable = true ∧ (Instr.wmr 0 0 0 [0]).encodable = true ∧
    (Instr.illfn 0 0xFF [0, 0, 0, 0, 0]).encodable = true ∧ (Instr.rspR 0 []).encodable = true ∧
    (Instr.rspR 0 (List.replicate 127 0xFFFF)).encodable = true ∧ (Instr.rspW 0 0xFFFF 0).encodable = true ∧
    (Instr.rspE 0 0x80 .illegalFunction).encodable = true ∧ (Instr.process [] false).encodable = true := by
  decide +kernel

theorem witness_decoded_frames :
    decode (.request frameV3) = .ok (.rhr 0x11 0x0000 0x0002 [0xC6, 0x9B]) ∧
    decode (.response [0x11, 0x86, 0x01, 0x82, 0x65]) = .ok (.rspE 0x11 0x86 .illegalFunction) :=
  ⟨test_decode_rhr, test_decode_rspE.1⟩

theorem witness_function_code_map : ([0x1B#8] : List Byte) ≠ [] := by decide

/-- The shortest and the longest read response, with a value at its last place. -/
theorem witness_response_formats :
    ([] : List Word).length ≤ 127 ∧ (List.replicate 127 (0xFFFF#16 : Word)).length ≤ 127 ∧
    (List.replicate 127 (0xFFFF#16 : Word))[126]? = some 0xFFFF#16 := by decide +kernel

theorem witness_search :
    (confC []).nb ≤ (confC []).binds.length ∧
    ({ confC [] with func := 0x03, addr := 2, count := 1 } : State).search = some 1 ∧
    ({ confC [] with func := 0x10, addr := 2, count := 1 } : State).search = some 0 ∧
    ({ confC [] with func := 0x03, addr := 4, count := 0 } : State).search = none := by decide +kernel

/-- Either side of the guard, at its boundary, and a count of 0. -/
theorem witness_guard :
    (confA []).Sized ∧ (confA []).cfg.maxReg.val < (5#16 : Word).toNat ∧ (4#16 : Word).toNat ≤ (confA []).cfg.maxReg.val ∧
    (0#16 : Word).toNat ≤ (confA []).cfg.maxReg.val := ⟨(sized_conf []).1, by decide, by decide, by decide⟩

/-- V9 (a range that leaves the binding), V31 (just behind it, count 0) and V29 (no write accessor). -/
theorem witness_unmatched :
    (confA []).Sized ∧ (confA []).NoFit true 3 2 ∧ (confA []).NoFit true 4 0 ∧ (confA []).NoFit false 0 1 := by
  refine ⟨(sized_conf []).1, ?_, ?_, ?_⟩ <;> intro j hj b hb <;>
    have hj0 : j = 0 := (Nat.lt_one_iff.mp hj) <;> subst hj0 <;> cases hb <;> unfold Fits <;> decide

theorem firstFit_confB (inputs : List Input) (read : Bool) (a c : Word) (h : a.toNat < 4 ∧ a.toNat + c.toNat ≤ 4) :
    (confB inputs).FirstFit read a c 0 :=
  ⟨Nat.zero_lt_one, ⟨_, rfl, by cases read <;> simp [Fits] <;> omega⟩, by intro j hj; exact absurd hj (Nat.not_lt_zero j)⟩

/-- A served request: every call answered with success, the last register of the binding, a failing answer, count 0. -/
theorem witness_served (read : Bool) :
    (confB []).Sized ∧ (4#16 : Word).toNat ≤ (confB []).cfg.maxReg.val ∧
    (∀ inputs, (confB inputs).FirstFit read 0 4 0) ∧ (∀ inputs, (confB inputs).FirstFit read 3 1 0) ∧
    (∀ inputs, (confB inputs).FirstFit read 3 0 0) ∧
    (confB (answerInputs [(true, 1), (true, 2), (true, 3), (true, 4)] ++ [])).inputs =
      answerInputs [(true, 1), (true, 2), (true, 3), (true, 4)] ++ [] ∧
    endsLoop 4 [(true, 1), (true, 2), (true, 3), (true, 4)] = true ∧ endsLoop 4 [(true, 1), (false, 2)] = true ∧
    endsLoop 1 [(false, 2)] = true ∧ endsLoop 0 [] = true :=
  ⟨(sized_conf []).2.1, by decide, fun i => firstFit_confB i read 0 4 (by decide),
    fun i => firstFit_confB i read 3 1 (by decide), fun i => firstFit_confB i read 3 0 (by decide), rfl, rfl, rfl, rfl, rfl⟩

/-- A write request of 8 bytes: the high byte of value 0 lies inside the frame, the low byte beyond its end. -/
theorem witness_written_high_byte_only :
    (0 : Nat) < (1#16 : Word).toNat ∧ ([0x02, 0x12] : List Byte)[1 + 2 * 0]? = some 0x12#8 ∧
    ([0x02, 0x12] : List Byte)[2 + 2 * 0]? = none := by decide

/-- A value of a write request that lies in the frame. -/
theorem witness_written_value :
    (0 : Nat) < (1#16 : Word).toNat ∧ ([0x02, 0x12, 0x34, 0x36, 0xE8] : List Byte)[1 + 2 * 0]? = some 0x12#8 ∧
    ([0x02, 0x12, 0x34, 0x36, 0xE8] : List Byte)[2 + 2 * 0]? = some 0x34#8 := by decide

theorem witness_unanswered (read : Bool) :
    (confB []).Sized ∧ (2#16 : Word).toNat ≤ (confB []).cfg.maxReg.val ∧
    (confB (answerInputs [(true, 7)] ++ [])).inputs = answerInputs [(true, 7)] ++ [] ∧ allOk [(true, 7)] ∧
    [((true, 7) : Bool × Word)].length < (2#16 : Word).toNat ∧ NoAnswer [] ∧
    (∀ inputs, (confB inputs).FirstFit read 0 2 0) :=
  ⟨(sized_conf []).2.1, by decide, rfl, by simp [allOk], by decide, (by intro _ _ _ h; cases h),
    fun i => firstFit_confB i read 0 2 (by decide)⟩

theorem witness_resumes :
    (confB_reading (answerInputs [(true, 9)] ++ [])).Inv ∧ (confB_writing (answerInputs [(false, 0)] ++ [])).Inv ∧
    (confB_reading (answerInputs [(true, 9)] ++ [])).inputs = answerInputs [(true, 9)] ++ [] ∧
    endsLoop ((confB_reading []).count.toNat - (confB_reading []).idx) [(true, 9)] = true ∧
    endsLoop ((confB_writing []).count.toNat - (confB_writing []).idx) [(false, 0)] = true ∧
    (confB_reading []).ph = .rd ∧ (confB_writing []).ph = .wr :=
  ⟨(inv_waiting _).1, (inv_waiting _).2, rfl, rfl, rfl, rfl, rfl⟩

/-- The same with a call more to make than there are answers. -/
theorem witness_partly_answered :
    ({ confB_reading (answerInputs [(true, 9)] ++ []) with count := 3 } : State).Inv ∧
    ({ confB_writing (answerInputs [(true, 0)] ++ []) with count := 3 } : State).Inv ∧
    (confB_reading (answerInputs [(true, 9)] ++ [])).inputs = answerInputs [(true, 9)] ++ [] ∧
    [((true, 9) : Bool × Word)] ≠ [] ∧ allOk [(true, 9)] ∧ [((true, 9) : Bool × Word)].length < (3#16 : Word).toNat - 1 ∧
    NoAnswer [] := by
  have hs := (sized_conf (answerInputs [(true, 9)] ++ [])).2.1
  have hs' := (sized_conf (answerInputs [(true, 0)] ++ [])).2.1
  refine ⟨⟨⟨hs.1, hs.2, hs.3, hs.4, hs.5, hs.6⟩, ⟨rfl, ⟨?_, ?_, ?_⟩⟩, ?_⟩,
    ⟨⟨hs'.1, hs'.2, hs'.3, hs'.4, hs'.5, hs'.6⟩, ⟨rfl, ⟨?_, ?_, ?_⟩⟩, ?_⟩, rfl, by decide, by simp [allOk], by decide,
    (by intro _ _ _ h; cases h)⟩
  all_goals first
    | (intro b hb; exact absurd hb (by simp [confB_reading, confB_writing, confB, conf, State.reset, State.resetOf]))
    | rfl
    | exact Nat.le_of_ble_eq_true rfl

theorem witness_responses :
    (confA []).Sized ∧ [1, 2, 3, (4 : Word)].length ≤ (confA []).cfg.maxReg.val ∧
    (confA []).cfg.maxReg.val < [1, 2, 3, 4, (5 : Word)].length := ⟨(sized_conf []).1, by decide, by decide⟩

theorem witness_burst : (txBurst frameV3)[7]? = some (0x9B#8, true) ∧ (txBurst frameV3)[6]? = some (0xC6#8, false) := by
  decide

/-- One witness for each clause: the three places where a move is taken, and the phases DECODE, WACK and XRSP. -/
theorem witness_step :
    (confA [.edge PortEdge.quiet]).ph = .idle ∧ (confB_reading [.edge PortEdge.quiet]).waiting = true ∧
    (confB_writing [.edge PortEdge.quiet]).waiting = true ∧ decode (.port PortEdge.quiet) = .ok .crcRead ∧
    decode (.request ({ confA [] with ph := .decode, rxbuf := overwrite (confA []).rxbuf frameV3, len := 8 } : State).frame) =
      .ok (.rhr 0x11 0 2 [0xC6, 0x9B]) ∧
    (0x06#8 : Byte) ≠ 0x03#8 ∧ (0x06#8 : Byte) ≠ 0x10#8 := by decide +kernel

/-- And for the steps that run no instruction: no move left, and an answer that no call waits for. -/
theorem witness_step_without_instruction :
    (confA []).ph = .idle ∧ ({ confA [] with ph := .recv } : State).inputs = [] ∧ (confB_reading []).waiting = true ∧
    (confB_writing []).waiting = true ∧ (confB_writing []).inputs = [] ∧
    (confA [.answer true 7]).inputs = .answer true 7 :: [] := by decide +kernel

theorem witness_table_words :
    (confA []).Sized ∧ decodeTableWord 8 0 = some .crcRead ∧ decodeTableWord 8 0b100000 = some .reset ∧
    decodeTableWord 16 0x0003 = some (.rhr 0 0 0 [0]) ∧ decodeTableWord 16 0x0010 = some (.wmr 0 0 0 [0]) ∧
    decodeTableWord 16 0x0000 = some (.illfn 0 0 [0, 0, 0, 0, 0]) :=
  ⟨(sized_conf []).1, by decide +kernel, by decide +kernel, by decide +kernel, by decide +kernel, by decide +kernel⟩

theorem witness_strobes :
    (confA [.edge { PortEdge.quiet with strobes := 0b000011 }]).ph = .idle ∧
    (confA [.edge { PortEdge.quiet with strobes := 0b011000 }]).inputs = [.edge { PortEdge.quiet with strobes := 0b011000 }] ∧
    (confB_reading [.edge { PortEdge.quiet with strobes := 0b111111 }]).waiting = true ∧
    ({ PortEdge.quiet with strobes := 0b111111 } : PortEdge).strobes.getLsbD 5 = true := by decide +kernel

theorem witness_configuration_changes :
    (∃ t, exec (.config 0x22) (confA []) = .next t) ∧ (∃ t, exec (.register 4 1 true true) (confA []) = .next t) ∧
    (∃ t, exec .reset (confA []) = .next t) ∧ (∃ t, exec (.process frameV3 true) (confA []) = .next t) :=
  ⟨⟨_, rfl⟩, ⟨_, rfl⟩, ⟨_, rfl⟩, next_of_out (by decide +kernel)⟩

/-- Of a step: one that goes on with a transaction, one that changes STATION, one that changes NB. -/
theorem witness_step_configuration_changes :
    (out (step (confB_reading [.answer true 9]))).map (fun t => (t.ph, t.station, t.nb)) = some (.idle, 0x11, 1) ∧
    (out (step (confA [.edge { PortEdge.quiet with strobes := 0b010000, cfgStation := 0x22 }]))).map (·.station) = some 0x22 ∧
    (confA [.edge { PortEdge.quiet with strobes := 0b010000, cfgStation := 0x22 }]).station = 0x11 ∧
    (out (step (confA [.edge { PortEdge.quiet with strobes := 0b001000, cfgCount := 1, cfgHasRead := true }]))).map (·.nb) =
      some 2 ∧
    (confA [.edge { PortEdge.quiet with strobes := 0b001000, cfgCount := 1, cfgHasRead := true }]).nb = 1 := by
  decide +kernel

theorem witness_ignores_host_crc :
    Instr.process frameV3 true ≠ .reset ∧ Instr.process frameV3 true ≠ .crcInit ∧
    (∀ x, Instr.process frameV3 true ≠ .crcByte x) ∧ Instr.process frameV3 true ≠ .crcRead :=
  ⟨by decide, by decide, (by intro x h; cases h), by decide⟩

/-- Of a step: the next move is an answer, and an edge with another operation. -/
theorem witness_step_ignores_host_crc :
    (∀ (e : PortEdge) (rest : List Input), (confB_writing [.answer true 0]).inputs ≠ .edge e :: rest) ∧
    decodePort { PortEdge.quiet with strobes := 0b000100, rxData := frameV3, rxLast := true } = .process frameV3 true :=
  ⟨(by intro e rest h; cases h), by decide +kernel⟩

/-- A step from a state of the invariant: of an idle block, and of one that waits, to its end. -/
theorem witness_steps :
    (confA [.edge PortEdge.quiet]).Inv ∧ (∃ t, step (confA [.edge PortEdge.quiet]) = .next t) ∧
    (confB_reading [.answer true 9]).Inv ∧ (∃ t, step (confB_reading [.answer true 9]) = .next t) :=
  ⟨inv_confA _, ⟨_, rfl⟩, (inv_waiting _).1, ⟨_, rfl⟩⟩

theorem witness_answered :
    (confA []).Sized ∧ (confA (answerInputs (List.replicate 4 (true, 0)) ++ [])).inputs =
      answerInputs (List.replicate 4 (true, 0)) ++ [] ∧
    (confA []).cfg.maxReg.val ≤ (List.replicate 4 ((true, 0) : Bool × Word)).length ∧
    (confA []).accepts frameV3 = true ∧ (confA []).accepts frameV3.tail = false :=
  ⟨(sized_conf []).1, rfl, by decide, by decide +kernel, by decide +kernel⟩

/-- One witness for each outcome of the priority table: V7, V25, V8, V31's second frame, and V3's request in B. -/
theorem witness_priority :
    (confB []).Sized ∧ (confB []).ph = .idle ∧ crc16 [0x11, 0x03, 0x00, 0x00, 0x00, 0x02, 0xC7, 0x9B] ≠ 0x0000#16 ∧
    (confB []).accepts [0x11, 0x06, 0x00, 0x01, 0xFF, 0xFF, 0xDB, 0x2A] = true ∧
    (confB []).accepts [0x11, 0x03, 0x00, 0x00, 0x00, 0x05, 0x87, 0x59] = true ∧
    (confB []).cfg.maxReg.val < (be16 0x00 0x05).toNat ∧
    (confB []).accepts [0x11, 0x03, 0x00, 0x04, 0x00, 0x00, 0x06, 0x9B] = true ∧ (confB []).NoFit true (be16 0x00 0x04) 0 ∧
    (confB []).accepts frameV3 = true ∧ (confB []).FirstFit true (be16 0x00 0x00) (be16 0x00 0x02) 0 ∧
    endsLoop (be16 0x00 0x02).toNat [(true, 5), (true, 6)] = true := by
  refine ⟨(sized_conf []).2.1, rfl, by decide +kernel, by decide +kernel, by decide +kernel, by decide,
    by decide +kernel, ?_, by decide +kernel, firstFit_confB [] true _ _ (by decide), by decide⟩
  intro j hj b hb
  have hj0 : j = 0 := Nat.lt_one_iff.mp hj
  subst hj0; cases hb; unfold Fits; decide

/-- The same with function 0x10: a served write (V5), a count above MAXREG, a write that no binding fits; and the frame of
6 bytes of V18. -/
theorem witness_priority_of_writes :
    (confB []).accepts frameV5 = true ∧ (confB []).FirstFit (decide ((0x10#8 : Byte) = 0x03#8)) (be16 0 0) (be16 0 2) 0 ∧
    endsLoop (be16 0 2).toNat [(true, 0), (false, 0)] = true ∧
    (confB []).accepts (crcAppend [0x11, 0x10, 0x00, 0x00, 0x00, 0x05]) = true ∧
    (confB []).cfg.maxReg.val < (be16 0x00 0x05).toNat ∧
    (confA []).accepts frameV5 = true ∧ (confA []).NoFit (decide ((0x10#8 : Byte) = 0x03#8)) (be16 0 0) (be16 0 2) ∧
    [0x11, 0x06, 0x00, 0x01, 0x24, 0xD9#8].length < 7 := by
  refine ⟨by decide +kernel, firstFit_confB [] false _ _ (by decide), by decide, by decide +kernel, by decide,
    by decide +kernel, ?_, by decide⟩
  intro j hj b hb
  have hj0 : j = 0 := Nat.lt_one_iff.mp hj
  subst hj0; cases hb; unfold Fits; decide

end Sys2Proof.Tests
end

section
/-! Reset: the state after reset meets each part of the invariant (10_state.md sections 1 and 9). -/

namespace Sys2Proof.Machine

/-- The sizes are those the reset state's lists are built with; its table holds no valid entry, since NB is 0. -/
theorem State.resetOf_sized (c : Config) : (State.resetOf c).Sized where
  binds_length := List.length_replicate
  nb_le := Nat.zero_le _
  entries_valid _ hb := absurd hb List.not_mem_nil
  valbuf_length := List.length_replicate
  rxbuf_length := List.length_replicate
  txbuf_length := List.length_replicate

/-- Nothing has been observed at reset, so no frame has been handed to the sink. -/
theorem State.resetOf_sinkFramesIntact (c : Config) : (State.resetOf c).SinkFramesIntact :=
  fun _ hmem => absurd hmem List.not_mem_nil

/-- The block rests in IDLE after reset, where `RestsWell` asks nothing. -/
theorem State.resetOf_restsWell (c : Config) : (State.resetOf c).RestsWell := trivial

/-- Settles O2: the sizes, the resting phase and the empty trace, each by its own lemma. -/
theorem resetStateMeetsInvariant : Obligations.ResetStateMeetsInvariant := fun c =>
  { sized := State.resetOf_sized c
    rests := State.resetOf_restsWell c
    sink := State.resetOf_sinkFramesIntact c }

end Sys2Proof.Machine
end

section
/-! The CRC residue of a terminated frame (40_crc_engine.md, R119, R121 (a)). -/

namespace Sys2Proof

/-- An iteration whose data bit is the register's own bit `k`, after `k` bits have been shifted out, shifts one more out. -/
theorem crcBit_shift (c : Word) (k : Nat) : crcBit (c >>> k) (c.getLsbD k) = c >>> (k + 1) := by
  have h : (c >>> k).getLsbD 0 = c.getLsbD k := by simp
  rw [← h, crcBit_self, BitVec.shiftRight_add]

/-- The byte that equals the register's low byte only shifts that byte out. -/
theorem crcByte_lo (c : Word) : crcByte c (lo c) = c >>> 8 := by
  have hbit (k : Nat) (hk : k < 8) : (lo c).getLsbD k = c.getLsbD k := by simp [lo, hk]
  rw [crcByte_unfold, hbit 0 (by decide), hbit 1 (by decide), hbit 2 (by decide), hbit 3 (by decide), hbit 4 (by decide),
    hbit 5 (by decide), hbit 6 (by decide), hbit 7 (by decide)]
  have h0 : crcBit c (c.getLsbD 0) = c >>> 1 := crcBit_self c
  simp only [h0, crcBit_shift]

theorem lo_ushiftRight_eight (c : Word) : lo (c >>> 8) = hi c := by
  ext i hi'; simp [lo, hi]

/-- A frame terminated by its CRC, low byte first, has residue 0. -/
theorem crc16_crcAppend (m : List Byte) : crc16 (crcAppend m) = 0x0000#16 := by
  rw [crcAppend, crc16_append, crcFrom_cons, crcFrom_cons, crcFrom_nil, crcByte_lo, ← lo_ushiftRight_eight, crcByte_lo,
    ← BitVec.shiftRight_add]
  exact BitVec.ushiftRight_eq_zero (Nat.le_refl 16)

end Sys2Proof
end

section
/-! What every operation keeps of the invariant (10_state.md sections 1 to 5): the sizes, the table entries and the frames
at the sink hold also inside a transaction, where `RestsWell` does not. -/

namespace Sys2Proof.Machine

/-! ## The sizes and the frames at the sink -/

/-- The part of the invariant that does not speak of the resting phase, so that it holds in every phase of a transaction. -/
structure State.Sound (s : State) : Prop where
  sized : s.Sized
  sink  : s.SinkFramesIntact

theorem State.Inv.sound {s : State} (h : s.Inv) : s.Sound := ⟨h.sized, h.sink⟩

theorem State.Sound.inv {s : State} (h : s.Sound) (hr : s.RestsWell) : s.Inv := ⟨h.sized, hr, h.sink⟩

/-- The sizes depend only on the parameters, the table and the lengths of the buffers. -/
theorem State.Sized.of_same {s t : State} (h : s.Sized) (hcfg : t.cfg = s.cfg := by rfl)
    (hbinds : t.binds = s.binds := by rfl) (hnb : t.nb = s.nb := by rfl)
    (hval : t.valbuf.length = s.valbuf.length := by rfl) (hrx : t.rxbuf.length = s.rxbuf.length := by rfl)
    (htx : t.txbuf.length = s.txbuf.length := by rfl) : t.Sized where
  binds_length := by rw [hbinds, hcfg, h.binds_length]
  nb_le := by rw [hnb, hcfg]; exact h.nb_le
  entries_valid := by rw [hbinds, hnb]; exact h.entries_valid
  valbuf_length := by rw [hval, hcfg, h.valbuf_length]
  rxbuf_length := by rw [hrx, hcfg, h.rxbuf_length]
  txbuf_length := by rw [htx, hcfg, h.txbuf_length]

/-- New events keep the sink's frames intact if each hand-over among them is of an intact frame that fits TXBUF. -/
theorem State.SinkFramesIntact.append {s t : State} {new : List Event} (h : s.SinkFramesIntact)
    (htrace : t.trace = s.trace ++ new) (hcfg : t.cfg = s.cfg)
    (hnew : ∀ bytes, Event.respond bytes ∈ new →
      crc16 bytes = 0x0000#16 ∧ 5 ≤ bytes.length ∧ bytes.length ≤ s.cfg.txcap) :
    t.SinkFramesIntact := by
  intro bytes hmem
  rw [hcfg]
  rw [htrace, List.mem_append] at hmem
  exact hmem.elim (h bytes) (hnew bytes)

/-- An update of no parameter, no table entry, no buffer's length and no event keeps both. -/
theorem State.Sound.of_same {s t : State} (h : s.Sound) (hcfg : t.cfg = s.cfg := by rfl)
    (hbinds : t.binds = s.binds := by rfl) (hnb : t.nb = s.nb := by rfl)
    (hval : t.valbuf.length = s.valbuf.length := by rfl) (hrx : t.rxbuf.length = s.rxbuf.length := by rfl)
    (htx : t.txbuf.length = s.txbuf.length := by rfl) (htrace : t.trace = s.trace := by rfl) : t.Sound where
  sized := h.sized.of_same hcfg hbinds hnb hval hrx htx
  sink := h.sink.append (htrace.trans (List.append_nil _).symm) hcfg (by simp)

/-! ## The response path: a transaction that ends, ends well -/

/-- A response of at least three bytes that fits TXBUF with its CRC leaves a state of the invariant. -/
theorem State.Sound.emit_inv {s : State} (h : s.Sound) (bs : List Byte) (hmin : 3 ≤ bs.length)
    (hmax : bs.length + 2 ≤ s.cfg.txcap) : (emit bs s).Inv := by
  rw [emit_eq bs s (by rw [h.sized.txbuf_length]; exact hmax)]
  refine ⟨h.sized.of_same rfl rfl rfl rfl rfl (overwrite_length _ _), trivial, h.sink.append rfl rfl ?_⟩
  intro bytes hmem
  obtain rfl : bytes = crcAppend bs := by simpa using hmem
  rw [crcAppend_length]
  exact ⟨crc16_crcAppend bs, by omega, hmax⟩

theorem State.Sound.raiseException_inv {s : State} (h : s.Sound) (code : ExcCode) : (raiseException code s).Inv := by
  have htx := (txcap_bounds s.cfg).2
  exact h.of_same.emit_inv _ (by simp) (by rw [exceptionBytes_length]; exact Nat.le_trans (by decide) htx)

theorem State.Sound.writeAck_inv {s : State} (h : s.Sound) : (writeAck s).Inv :=
  h.of_same.emit_inv _ (by simp) (txcap_bounds s.cfg).2

theorem sentValues_length (s : State) : (sentValues s).length = s.count.toNat := by simp [sentValues]

theorem State.Sound.readResponse_inv {s : State} (h : s.Sound) (hguard : s.count.toNat ≤ s.cfg.maxReg.val) :
    (readResponse s).Inv := by
  have htx := (txcap_bounds s.cfg).1
  refine h.of_same.emit_inv _ (by simp) ?_
  rw [readResponseBytes_length, sentValues_length]
  show 3 + 2 * s.count.toNat + 2 ≤ s.cfg.txcap
  omega

/-! ## The accessor loops -/

theorem readCalls_isCall (k : Nat) (a : Word) (as : List (Bool × Word)) : ∀ e ∈ readCalls k a as, e.isCall = true := by
  induction as generalizing a with
  | nil => simp [readCalls]
  | cons p as ih => simpa [readCalls, Event.isCall] using ih (a + 1#16)

theorem writeCalls_isCall (k : Nat) (a : Word) (vs : List Word) (as : List (Bool × Word)) :
    ∀ e ∈ writeCalls k a vs as, e.isCall = true := by
  induction as generalizing a vs with
  | nil => cases vs <;> simp [writeCalls]
  | cons p as ih =>
    cases vs with
    | nil => simp [writeCalls]
    | cons v vs => simpa [writeCalls, Event.isCall] using ih (a + 1#16) vs

/-- Accessor calls hand no frame to the sink. -/
theorem State.SinkFramesIntact.append_calls {s t : State} {calls : List Event} (h : s.SinkFramesIntact)
    (htrace : t.trace = s.trace ++ calls) (hcfg : t.cfg = s.cfg) (hcalls : ∀ e ∈ calls, e.isCall = true) :
    t.SinkFramesIntact :=
  h.append htrace hcfg fun _ hmem => absurd (hcalls _ hmem) (by simp [Event.isCall])

theorem State.Sound.afterReads {s : State} (h : s.Sound) (hidx : s.idx ≤ s.valbuf.length) (as : List (Bool × Word))
    (rest : List Input) : (afterReads as rest s).Sound where
  sized := h.sized.of_same rfl rfl rfl <| by
    simp only [Machine.afterReads, List.length_append, List.length_take, overwrite_length, List.length_drop]; omega
  sink := h.sink.append_calls rfl rfl (readCalls_isCall _ _ _)

theorem State.Sound.afterWrites {s : State} (h : s.Sound) (as : List (Bool × Word)) (rest : List Input) :
    (afterWrites as rest s).Sound where
  sized := h.sized.of_same
  sink := h.sink.append_calls rfl rfl (writeCalls_isCall _ _ _ _)

theorem successes_le (as : List (Bool × Word)) : successes as ≤ as.length := List.length_filter_le _ _

/-- A request that has passed the guard and whose search has found SEL, `n` registers before the end of its loop. -/
structure State.Looping (s : State) (n : Nat) : Prop where
  sound : s.Sound
  guard : s.count.toNat ≤ s.cfg.maxReg.val
  found : s.search = some s.sel
  togo  : s.idx + n = s.count.toNat

/-- The loop's calls stay inside VALBUF. -/
theorem State.Looping.idx_le {s : State} {n : Nat} (h : s.Looping n) : s.idx + n ≤ s.valbuf.length := by
  rw [h.sound.sized.valbuf_length, h.togo]; exact h.guard

/-- A loop that stops for want of an answer has a call outstanding. -/
theorem State.Looping.pending {s : State} {n : Nat} (h : s.Looping n) {as : List (Bool × Word)} (hlt : as.length < n) :
    s.idx + successes as < s.count.toNat := by
  have hle := successes_le as
  have htogo := h.togo
  omega

theorem State.Looping.readLoop_inv {s : State} {n : Nat} (h : s.Looping n) (hph : s.ph = .rd) (hfunc : s.func = 0x03#8) :
    (readLoop n s).Inv := by
  have hsound (as : List (Bool × Word)) (rest : List Input) : (Machine.afterReads as rest s).Sound :=
    h.sound.afterReads (Nat.le_of_add_right_le h.idx_le) as rest
  obtain ⟨as, rest, -, ⟨-, heq⟩ | ⟨-, hlt, -, heq⟩⟩ := readLoop_cases n s h.idx_le
  · rw [heq]; exact (hsound as rest).readResponse_inv h.guard
  · rw [heq]
    refine (hsound as rest).inv ?_
    rw [State.RestsWell, show (Machine.afterReads as rest s).ph = .rd from hph]
    exact ⟨hfunc, h.guard, h.found, h.pending hlt⟩

theorem State.Looping.writeLoop_inv {s : State} {n : Nat} (h : s.Looping n) (hph : s.ph = .wr) (hfunc : s.func = 0x10#8) :
    (writeLoop n s).Inv := by
  obtain ⟨as, rest, -, ⟨-, heq⟩ | ⟨-, hlt, -, heq⟩⟩ := writeLoop_cases n s h.idx_le
  · rw [heq]; exact (h.sound.afterWrites as rest).writeAck_inv
  · rw [heq]
    refine (h.sound.afterWrites as rest).inv ?_
    rw [State.RestsWell, show (Machine.afterWrites as rest s).ph = .wr from hph]
    exact ⟨hfunc, h.guard, h.found, h.pending hlt⟩

/-- A waiting transaction is in its loop. -/
theorem State.Serving.looping {s : State} (h : s.Serving) (hs : s.Sound) : s.Looping (s.count.toNat - s.idx) where
  sound := hs
  guard := h.guard
  found := h.found
  togo := by have := h.pending; omega

theorem State.Inv.reading {s : State} (h : s.Inv) (hph : s.ph = .rd) : s.func = 0x03#8 ∧ s.Serving := by
  simpa only [State.RestsWell, hph] using h.rests

theorem State.Inv.writing {s : State} (h : s.Inv) (hph : s.ph = .wr) : s.func = 0x10#8 ∧ s.Serving := by
  simpa only [State.RestsWell, hph] using h.rests

theorem State.waiting_phase {s : State} (hw : s.waiting = true) : s.ph = .rd ∨ s.ph = .wr := by
  simp only [State.waiting, Bool.and_eq_true, Bool.or_eq_true, beq_iff_eq] at hw
  exact hw.1

theorem State.Serving.waiting {s : State} (h : s.Serving) (hph : s.ph = .rd ∨ s.ph = .wr) : s.waiting = true := by
  simp only [State.waiting, Bool.and_eq_true, Bool.or_eq_true, beq_iff_eq, decide_eq_true_eq]
  exact ⟨hph, h.pending⟩

/-- A waiting transaction that goes on ends, or waits again, in the invariant. -/
theorem State.Inv.resume_inv {s : State} (h : s.Inv) (hw : s.waiting = true) : (resume s).Inv := by
  rcases State.waiting_phase hw with hph | hph <;> simp only [resume, hph]
  · obtain ⟨hfunc, hserving⟩ := h.reading hph
    exact (hserving.looping h.sound).readLoop_inv hph hfunc
  · obtain ⟨hfunc, hserving⟩ := h.writing hph
    exact (hserving.looping h.sound).writeLoop_inv hph hfunc

end Sys2Proof.Machine
end

section
/-! Every instruction and every step keeps the invariant (10_state.md sections 1 to 5). -/

namespace Sys2Proof.Machine

/-! ## Requests -/

theorem State.Sound.readPhase_inv {s : State} (h : s.Sound) (hfunc : s.func = 0x03#8)
    (hguard : s.count.toNat ≤ s.cfg.maxReg.val) (hfound : s.search = some s.sel) : (readPhase s).Inv :=
  State.Looping.readLoop_inv ⟨h.of_same, hguard, hfound, Nat.zero_add _⟩ rfl hfunc

theorem State.Sound.writePhase_inv {s : State} (h : s.Sound) (rest : List Byte) (hfunc : s.func = 0x10#8)
    (hguard : s.count.toNat ≤ s.cfg.maxReg.val) (hfound : s.search = some s.sel) : (writePhase rest s).Inv :=
  State.Looping.writeLoop_inv ⟨h.of_same rfl rfl rfl (overwrite_length _ _), hguard, hfound, Nat.zero_add _⟩ rfl hfunc

/-- DECODE and MATCH end in the invariant if service by a found binding does. -/
theorem State.Sound.guardAndSearch_inv {s : State} (h : s.Sound) (func : Byte) (addr count : Word) (serve : State → State)
    (hserve : ∀ t : State, t.Sound → t.func = func → t.count.toNat ≤ t.cfg.maxReg.val → t.search = some t.sel →
      (serve t).Inv) : (guardAndSearch func addr count serve s).Inv := by
  obtain ⟨-, heq⟩ | ⟨-, -, heq⟩ | ⟨k, hguard, hfound, heq⟩ := guardAndSearch_cases func addr count serve s
  all_goals rw [heq]
  · exact h.of_same.raiseException_inv _
  · exact h.of_same.raiseException_inv _
  · exact hserve _ h.of_same rfl hguard hfound

theorem State.Sound.execRhr_inv {s t : State} (h : s.Sound) {addr count : Word} (heq : execRhr addr count s = .next t) :
    t.Inv := by
  cases heq
  exact h.guardAndSearch_inv _ _ _ _ fun _ ht hfunc hguard hfound => ht.readPhase_inv hfunc hguard hfound

theorem State.Sound.execWmr_inv {s t : State} (h : s.Sound) {addr count : Word} {rest : List Byte}
    (heq : execWmr addr count rest s = .next t) : t.Inv := by
  cases heq
  exact h.guardAndSearch_inv _ _ _ _ fun _ ht hfunc hguard hfound => ht.writePhase_inv rest hfunc hguard hfound

theorem State.Sound.execIllfn_inv {s t : State} (h : s.Sound) {func : Byte} (heq : execIllfn func s = .next t) :
    t.Inv := by
  cases heq
  exact h.of_same.raiseException_inv _

theorem State.Sound.execRspR_inv {s t : State} (h : s.Sound) {station : Byte} {values : List Word}
    (heq : execRspR station values s = .next t) : t.Inv := by
  unfold execRspR at heq
  split at heq
  · next hle =>
    cases heq
    have htx := (txcap_bounds s.cfg).1
    exact h.emit_inv _ (by simp) (by rw [readResponseBytes_length]; omega)
  · cases heq

/-! ## Reception -/

theorem State.Sound.decodePhase_inv {s t : State} (h : s.Sound) (heq : decodePhase s = .next t) : t.Inv := by
  unfold decodePhase at heq
  split at heq
  · exact h.execRhr_inv heq
  · exact h.execWmr_inv heq
  · exact h.execIllfn_inv heq

theorem State.Sound.checkPhase_inv {s t : State} (h : s.Sound) (heq : checkPhase s = .next t) : t.Inv := by
  unfold checkPhase at heq
  split at heq
  · exact State.Sound.decodePhase_inv h.of_same heq
  · cases heq
    exact State.Sound.inv h.of_same trivial

/-- A delivery keeps the sizes and counts LEN up to RXCAP at most. -/
theorem State.Sound.receive {s : State} (h : s.Sound) (hlen : s.len ≤ s.cfg.rxcap) (bytes : List Byte) :
    (receive bytes s).Sound ∧ (receive bytes s).ph = s.ph ∧ (receive bytes s).len ≤ (receive bytes s).cfg.rxcap := by
  have hrx := h.sized.rxbuf_length
  rw [receive_eq bytes s hlen hrx]
  refine ⟨h.of_same rfl rfl rfl rfl ?_, rfl, Nat.min_le_right _ _⟩
  simp only [List.length_append, List.length_take, overwrite_length, List.length_drop]
  omega

theorem State.Sound.deliver_inv {s t : State} (h : s.Sound) (hph : s.ph = .recv) (hlen : s.len ≤ s.cfg.rxcap)
    {bytes : List Byte} {last : Bool} (heq : deliver bytes last s = .next t) : t.Inv := by
  obtain ⟨hsound, hph', hlen'⟩ := h.receive hlen bytes
  unfold deliver at heq
  split at heq
  · exact State.Sound.checkPhase_inv hsound.of_same heq
  · cases heq
    refine hsound.inv ?_
    rw [State.RestsWell, hph', hph]
    exact hlen'

theorem State.Inv.execProcess_inv {s t : State} (h : s.Inv) {bytes : List Byte} {last : Bool}
    (heq : execProcess bytes last s = .next t) : t.Inv := by
  unfold execProcess at heq
  split at heq
  case h_1 hph =>
    split at heq
    · cases heq; exact h
    · have hstart : (startReception s).Sound := h.sound.of_same
      exact hstart.deliver_inv rfl (Nat.zero_le _) heq
  case h_2 hph =>
    split at heq
    · cases heq; exact h
    · have hlen : s.len ≤ s.cfg.rxcap := by simpa only [State.RestsWell, hph] using h.rests
      exact h.sound.deliver_inv hph hlen heq
  case h_3 => cases heq

/-! ## Configuration and the host CRC port -/

/-- An update of nothing `RestsWell` reads keeps it. -/
theorem State.RestsWell.of_same {s t : State} (h : s.RestsWell) (hph : t.ph = s.ph := by rfl)
    (hlen : t.len = s.len := by rfl) (hcfg : t.cfg = s.cfg := by rfl) (hfunc : t.func = s.func := by rfl)
    (hcount : t.count = s.count := by rfl) (hsearch : t.search = s.search := by rfl)
    (hsel : t.sel = s.sel := by rfl) (hidx : t.idx = s.idx := by rfl) : t.RestsWell := by
  have hserv (hs : s.Serving) : t.Serving :=
    ⟨by rw [hcount, hcfg]; exact hs.guard, by rw [hsearch, hsel]; exact hs.found, by rw [hidx, hcount]; exact hs.pending⟩
  unfold State.RestsWell at h ⊢
  rw [hph]
  split at h
  · trivial
  · show t.len ≤ t.cfg.rxcap
    rw [hlen, hcfg]; exact h
  · exact ⟨hfunc ▸ h.1, hserv h.2⟩
  · exact ⟨hfunc ▸ h.1, hserv h.2⟩
  · exact h.elim

theorem State.Inv.withInputs {s : State} (h : s.Inv) (inputs : List Input) : ({ s with inputs := inputs } : State).Inv :=
  State.Sound.inv h.sound.of_same h.rests.of_same

theorem State.Inv.withCrch {s : State} (h : s.Inv) (c : Word) : (s.withCrch c).Inv :=
  State.Sound.inv h.sound.of_same h.rests.of_same

theorem State.Inv.observe_crcRead {s : State} (h : s.Inv) (c : Word) (z : Bool) : (observe (.crcRead c z) s).Inv where
  sized := h.sized.of_same
  rests := h.rests.of_same
  sink := h.sink.append rfl rfl (by simp)

/-- RESET leaves buffers and a table of the right sizes, no registered binding, and the block idle. -/
theorem State.Inv.execReset_inv {s t : State} (h : s.Inv) (heq : execReset s = .next t) : t.Inv := by
  cases heq
  have hsink := h.sink
  refine State.Sound.inv ⟨⟨?_, Nat.zero_le _, ?_, ?_, ?_, ?_⟩, hsink⟩ trivial
  all_goals simp [freeBindings, freeWords, freeBytes]

/-- The entries up to and with entry `n`, once it is written: the earlier ones and the new one. -/
theorem mem_take_succ_set {α : Type} {l : List α} {n : Nat} {x y : α} (h : y ∈ (l.set n x).take (n + 1)) :
    y ∈ l.take n ∨ y = x := by
  by_cases hn : n < l.length
  · rw [take_set_succ l n x hn] at h
    simpa using h
  · rw [List.set_eq_of_length_le (by omega), List.take_of_length_le (by omega)] at h
    rw [List.take_of_length_le (by omega)]
    exact .inl h

/-- An accepted REGISTER appends a valid entry to a table that has room for it (R182). -/
theorem State.Sound.register {s : State} (h : s.Sound) {base count : Word} {hasRead hasWrite : Bool}
    (hacc : registerAccepted count hasRead hasWrite s = true) :
    ({ s with binds := s.binds.set s.nb { base := base, cnt := count, hr := hasRead, hw := hasWrite },
              nb := s.nb + 1 } : State).Sound := by
  simp only [registerAccepted, Bool.and_eq_true, bne_iff_ne] at hacc
  obtain ⟨⟨hcount, haccessor⟩, hroom⟩ := hacc
  refine ⟨⟨?_, ?_, ?_, h.sized.valbuf_length, h.sized.rxbuf_length, h.sized.txbuf_length⟩, h.sink⟩
  · exact List.length_set.trans h.sized.binds_length
  · exact Nat.lt_of_le_of_ne h.sized.nb_le hroom
  · intro b hb
    rcases mem_take_succ_set hb with hold | rfl
    · exact h.sized.entries_valid b hold
    · simp [Binding.valid, hcount, haccessor]

theorem State.Inv.execRegister_inv {s t : State} (h : s.Inv) {base count : Word} {hasRead hasWrite : Bool}
    (heq : execRegister base count hasRead hasWrite s = .next t) : t.Inv := by
  unfold execRegister at heq
  split at heq
  case isTrue => cases heq
  case isFalse hidle =>
    have hph : s.ph = .idle := by simpa [State.busy] using hidle
    split at heq <;> cases heq
    · next hacc =>
      refine (h.sound.register hacc).inv ?_
      rw [State.RestsWell, hph]
      trivial
    · exact h

theorem State.Inv.execConfig_inv {s t : State} (h : s.Inv) {station : Byte} (heq : execConfig station s = .next t) :
    t.Inv := by
  unfold execConfig at heq
  split at heq <;> cases heq
  exact State.Sound.inv h.sound.of_same h.rests.of_same

/-! ## Instructions and steps -/

/-- Every instruction keeps the invariant, the request kinds and the response formats also where they stand alone. -/
theorem exec_keeps_inv {i : Instr} {s t : State} (h : s.Inv) (heq : exec i s = .next t) : t.Inv := by
  cases i with
  | rhr station addr count rest => exact h.sound.execRhr_inv heq
  | wmr station addr count rest => exact h.sound.execWmr_inv heq
  | illfn station func rest => exact h.sound.execIllfn_inv heq
  | rspR station values => exact h.sound.execRspR_inv heq
  | rspW station addr count =>
    cases heq
    exact h.sound.emit_inv _ (by simp) (txcap_bounds s.cfg).2
  | rspE station func code =>
    cases heq
    exact h.sound.emit_inv _ (by simp) (Nat.le_trans (by decide : 5 ≤ 8) (txcap_bounds s.cfg).2)
  | reset => exact h.execReset_inv heq
  | config station => exact h.execConfig_inv heq
  | register base count hasRead hasWrite => exact h.execRegister_inv heq
  | process bytes last => exact h.execProcess_inv heq
  | crcInit => cases heq; exact h.withCrch _
  | crcByte x => cases heq; exact h.withCrch _
  | crcRead => cases heq; exact h.observe_crcRead _ _

/-- IDLE, RECV and an outstanding call take the outside world's next move. -/
theorem fetch_eq_fetchInput {s : State} (h : s.ph = .idle ∨ s.ph = .recv ∨ s.waiting = true) :
    fetch s = fetchInput s := by
  rcases h with hph | hph | hw
  · simp only [fetch, hph]
  · simp only [fetch, hph]
  · rcases State.waiting_phase hw with hph | hph <;> simp only [fetch, hph] <;> exact if_pos hw

/-- Where the block rests well it takes the outside world's next move. -/
theorem State.Inv.takes_move {s : State} (h : s.Inv) : s.ph = .idle ∨ s.ph = .recv ∨ s.waiting = true := by
  have hr := h.rests
  cases hph : s.ph <;> simp only [State.RestsWell, hph] at hr
  case idle => exact .inl rfl
  case recv => exact .inr (.inl rfl)
  case rd => exact .inr (.inr (hr.2.waiting (.inl hph)))
  case wr => exact .inr (.inr (hr.2.waiting (.inr hph)))

/-- All that a step of a state of the invariant can do: nothing, when no move is left; the transaction goes on with its
answer; an answer that no call waits for is dropped; the next operation of an edge runs. -/
theorem State.Inv.step_cases {s t : State} (h : s.Inv) (heq : step s = .next t) :
    (s.inputs = [] ∧ t = s) ∨
    (s.waiting = true ∧ t = resume s) ∨
    (∃ ok v rest, s.inputs = .answer ok v :: rest ∧ t = { s with inputs := rest }) ∨
    (∃ e rest, s.inputs = .edge e :: rest ∧ exec (decodePort e) { s with inputs := afterEdge e rest } = .next t) := by
  rw [step, fetch_eq_fetchInput h.takes_move, fetchInput] at heq
  split at heq
  case h_1 hin =>
    split at heq <;> cases heq
    exact .inl ⟨hin, rfl⟩
  case h_2 ok v rest hin =>
    split at heq <;> cases heq
    · next hw => exact .inr (.inl ⟨hw, rfl⟩)
    · exact .inr (.inr (.inl ⟨ok, v, rest, hin, rfl⟩))
  case h_3 e rest hin => exact .inr (.inr (.inr ⟨e, rest, hin, heq⟩))

/-- Settles O41: each of the things a step can do keeps the invariant. -/
theorem stepKeepsInvariant : Obligations.StepKeepsInvariant := by
  intro s t h heq
  obtain ⟨-, rfl⟩ | ⟨hw, rfl⟩ | ⟨ok, v, rest, -, rfl⟩ | ⟨e, rest, -, hexec⟩ := h.step_cases heq
  · exact h
  · exact h.resume_inv hw
  · exact h.withInputs rest
  · exact exec_keeps_inv (h.withInputs _) hexec

end Sys2Proof.Machine
end

section
/-! Reset, deliveries and the hand-over burst (10_state.md sections 9 and 11). -/

namespace Sys2Proof.Machine

/-- Settles O1: each element is the one the reset state is built with, and outside RD and WR no call is outstanding. -/
theorem resetStateIsIdleAndEmpty : Obligations.ResetStateIsIdleAndEmpty :=
  ⟨fun _ => ⟨rfl, rfl, rfl, rfl, rfl, rfl⟩, rfl⟩

/-! ## Deliveries (R41) -/

theorem execProcess_nil {s : State} (h : s.ph = .idle ∨ s.ph = .recv) (last : Bool) : execProcess [] last s = .next s := by
  rcases h with hph | hph <;> simp [execProcess, hph]

theorem execProcess_idle {s : State} (h : s.ph = .idle) {bytes : List Byte} (hne : bytes ≠ []) (last : Bool) :
    execProcess bytes last s = deliver bytes last (startReception s) := by
  simp [execProcess, h, hne]

theorem execProcess_recv {s : State} (h : s.ph = .recv) {bytes : List Byte} (hne : bytes ≠ []) (last : Bool) :
    execProcess bytes last s = deliver bytes last s := by
  simp [execProcess, h, hne]

@[simp] theorem receive_ph (bytes : List Byte) (s : State) : (receive bytes s).ph = s.ph := by
  induction bytes generalizing s with
  | nil => rfl
  | cons x bytes ih => rw [receive_cons, ih, receiveByte_ph]

/-- Bytes delivered together are bytes delivered one part after the other. -/
theorem deliver_append (as bs : List Byte) (last : Bool) (s : State) :
    deliver (as ++ bs) last s = deliver bs last (receive as s) := by
  simp only [deliver, receive_append]

theorem execAll_cons_of_next {i : Instr} {s t : State} (h : exec i s = .next t) (is : List Instr) :
    execAll (i :: is) s = execAll is t := by
  simp only [execAll, h]

theorem execAll_singleton (i : Instr) (s : State) : execAll [i] s = exec i s := by
  simp only [execAll]
  cases exec i s <;> rfl

/-- A first part, received from `r` on, and the rest of a frame: `r` is the state in which RECV takes its next byte. -/
theorem execAll_deliveries {s r : State} {as bs : List Byte} (last : Bool) (hr : r.ph = .recv) (hbs : bs ≠ [])
    (hfirst : exec (.process as false) s = deliver as false r) :
    execAll [.process as false, .process bs last] s = deliver (as ++ bs) last r := by
  rw [execAll_cons_of_next hfirst, execAll_singleton, deliver_append]
  exact execProcess_recv ((receive_ph as r).trans hr) hbs last

/-- Settles O16: from IDLE the frame starts with its first part, in RECV it goes on. -/
theorem deliveriesOfAFrameCompose : Obligations.DeliveriesOfAFrameCompose := by
  intro s as bs last hph has hbs
  have hne : as ++ bs ≠ [] := List.append_ne_nil_of_left_ne_nil has bs
  rcases hph with hidle | hrecv
  · rw [execAll_deliveries last (startReception_ph s) hbs (execProcess_idle hidle has false)]
    exact execProcess_idle hidle hne last
  · rw [execAll_deliveries last hrecv hbs (execProcess_recv hrecv has false)]
    exact execProcess_recv hrecv hne last

/-- Settles O44: neither phase starts or continues a frame with no byte. -/
theorem emptyDeliveryChangesNothing : Obligations.EmptyDeliveryChangesNothing :=
  fun _ last hph => execProcess_nil hph last

/-! ## The hand-over burst (R42) -/

/-- Beat `i` carries byte `i`, marked exactly if no byte follows it. -/
theorem txBurst_getElem? (bytes : List Byte) (i : Nat) :
    (txBurst bytes)[i]? = bytes[i]?.map fun b => (b, decide (i + 1 = bytes.length)) := by
  induction bytes using txBurst.induct generalizing i with
  | case1 => simp [txBurst]
  | case2 b => cases i <;> simp [txBurst]
  | case3 b c bs ih => cases i <;> simp [txBurst, ih]

/-- Settles O33: both clauses read off what each beat carries. -/
theorem burstMarksTheLastByteOnly : Obligations.BurstMarksTheLastByteOnly := by
  intro bytes
  refine ⟨List.ext_getElem? fun i => ?_, fun i b last h => ?_⟩
  · rw [List.getElem?_map, txBurst_getElem?, Option.map_map]
    exact Option.map_id'
  · rw [txBurst_getElem?, Option.map_eq_some_iff] at h
    obtain ⟨b', -, hbeat⟩ := h
    cases hbeat
    exact decide_eq_true_iff

end Sys2Proof.Machine
end

section
/-! One step: the next move of the outside world, or the phase a transaction rests in (10_state.md sections 5 and 11). -/

namespace Sys2Proof.Machine

theorem not_waiting_of_phase {s : State} (h : s.ph = .idle ∨ s.ph = .recv) : s.waiting = false := by
  rcases h with hph | hph <;> simp [State.waiting, hph]

/-- An edge runs its next operation, and the rest of the edge stays at the head of the moves. -/
theorem step_edge {s : State} {e : PortEdge} {rest : List Input} (h : s.ph = .idle ∨ s.ph = .recv ∨ s.waiting = true)
    (hin : s.inputs = .edge e :: rest) : step s = exec (decodePort e) { s with inputs := afterEdge e rest } := by
  simp only [step, fetch_eq_fetchInput h, fetchInput, hin, runFetched]

theorem step_decode {s : State} {i : Instr} (h : s.ph = .decode) (hi : decodeRequest s.frame = .ok i) :
    step s = exec i s := by
  simp only [step, fetch, h, hi, runFetched]

theorem step_wack {s : State} (h : s.ph = .wack) : step s = exec (.rspW s.station s.addr s.count) s := by
  simp only [step, fetch, h, runFetched]

theorem step_xrsp {s : State} (h : s.ph = .xrsp) :
    step s = exec (.rspE s.station (excFunc s.func) (exceptionOf s.func)) s := by
  simp only [step, fetch, h, runFetched]

theorem step_no_move {s : State} (h : s.ph = .idle ∨ s.ph = .recv) (hin : s.inputs = []) : step s = .next s := by
  simp [step, fetch_eq_fetchInput (h.imp_right .inl), fetchInput, hin, not_waiting_of_phase h, runFetched]

theorem step_stuck {s : State} (h : s.waiting = true) (hin : s.inputs = []) : step s = .fault .accessorNeverAnswers := by
  simp only [step, fetch_eq_fetchInput (.inr (.inr h)), fetchInput, hin, h, if_true, runFetched]

theorem step_spurious {s : State} {ok : Bool} {v : Word} {rest : List Input} (h : s.ph = .idle ∨ s.ph = .recv)
    (hin : s.inputs = .answer ok v :: rest) : step s = .next { s with inputs := rest } := by
  simp [step, fetch_eq_fetchInput (h.imp_right .inl), fetchInput, hin, not_waiting_of_phase h, runFetched]

/-! ## The exception of a block in XRSP (R135) -/

theorem exceptionOf_served {func : Byte} (h : func = 0x03#8 ∨ func = 0x10#8) : exceptionOf func = .illegalDataAddress := by
  rcases h with rfl | rfl <;> rfl

theorem exceptionOf_other {func : Byte} (h3 : func ≠ 0x03#8) (h10 : func ≠ 0x10#8) :
    exceptionOf func = .illegalFunction := by
  simp only [exceptionOf, requestKind, if_neg h3, if_neg h10]

/-- Settles O34: a rule for each phase and each kind of move at the head of the queue. -/
theorem stepRunsTheDecodedInstruction : Obligations.StepRunsTheDecodedInstruction := by
  refine ⟨?edge, ?request, fun _ hph => step_wack hph, ?other, ?served, fun _ hph hin => step_no_move hph hin,
    fun _ hw hin => step_stuck hw hin, fun _ _ _ _ hph hin => step_spurious hph hin⟩
  case edge =>
    intro s e rest i hph hin hi
    cases hi
    exact step_edge hph hin
  case request => exact fun s i hph hi => step_decode hph hi
  case other =>
    intro s hph h3 h10
    rw [step_xrsp hph, exceptionOf_other h3 h10, excFunc]
  case served =>
    intro s hph hfunc
    rw [step_xrsp hph, exceptionOf_served hfunc, excFunc]

/-! ## Several strobes on one edge (R40, R44, R45) -/

theorem remainingEdge_rst {e : PortEdge} (h : e.strobes.getLsbD 5 = true) : remainingEdge e = none := by
  simp only [remainingEdge, firstStrobe, h, if_true]

/-- Two strobes on an edge that an idle block takes: the first operation runs with the other strobe still at the head of the
moves; where it leaves PH and the moves as they are, the second runs with nothing left of the edge. -/
theorem step_two_strobes {s t : State} {e e' : PortEdge} {rest : List Input} {i i' : Instr} (hph : s.ph = .idle)
    (hin : s.inputs = .edge e :: rest) (hfirst : decodePort e = i) (hmore : remainingEdge e = some e')
    (hsecond : decodePort e' = i') (hlast : remainingEdge e' = none)
    (hexec : exec i { s with inputs := .edge e' :: rest } = .next t) (hph' : t.ph = s.ph)
    (hin' : t.inputs = .edge e' :: rest) : step s = .next t ∧ step t = exec i' { t with inputs := rest } := by
  constructor
  · rw [step_edge (.inl hph) hin, afterEdge, hmore, hfirst]; exact hexec
  · rw [step_edge (.inl (hph'.trans hph)) hin', afterEdge, hlast, hsecond]

theorem execConfig_idle (s : State) (h : s.ph = .idle) (station : Byte) :
    execConfig station s = .next { s with station := station } := by
  simp [execConfig, State.busy, h]

/-- Settles O36: after its first operation the edge still asserts the other strobe; after `rst` nothing is left. -/
theorem severalStrobesOnOneEdge : Obligations.SeveralStrobesOnOneEdge := by
  refine ⟨?crc, ?configuration, ?reset⟩
  case crc =>
    intro s e rest hph hin hstrobes
    have hfirst : decodePort e = .crcInit := by simp [decodePort, hstrobes]
    have hmore : remainingEdge e = some { e with strobes := 1#6 } := by
      simp [remainingEdge, firstStrobe, clearStrobe, hstrobes]
    have hsecond : decodePort { e with strobes := 1#6 } = .crcByte e.crcDin := by simp [decodePort]
    have hlast : remainingEdge { e with strobes := 1#6 } = none := by simp [remainingEdge, firstStrobe, clearStrobe]
    obtain ⟨hstep, hstep'⟩ := step_two_strobes hph hin hfirst hmore hsecond hlast rfl rfl rfl
    exact ⟨_, hstep, hstep'⟩
  case configuration =>
    intro s e rest hph hin hstrobes
    have hfirst : decodePort e = .config e.cfgStation := by simp [decodePort, hstrobes]
    have hmore : remainingEdge e = some { e with strobes := 8#6 } := by
      simp [remainingEdge, firstStrobe, clearStrobe, hstrobes]
    have hsecond : decodePort { e with strobes := 8#6 } =
        .register e.cfgBase e.cfgCount e.cfgHasRead e.cfgHasWrite := by simp [decodePort]
    have hlast : remainingEdge { e with strobes := 8#6 } = none := by simp [remainingEdge, firstStrobe, clearStrobe]
    have hexec := execConfig_idle { s with inputs := .edge { e with strobes := 8#6 } :: rest } hph e.cfgStation
    obtain ⟨hstep, hstep'⟩ := step_two_strobes hph hin hfirst hmore hsecond hlast hexec rfl rfl
    exact ⟨_, hstep, hstep'⟩
  case reset =>
    intro s e rest hph hin hrst
    rw [step_edge hph hin, afterEdge, remainingEdge_rst hrst, decodePort, if_pos hrst]

end Sys2Proof.Machine
end

section
/-! The frame processor and the host CRC register (10_state.md section 7, R32; 60_exceptions.md section 3, R196): with
another CRCH each operation does the same and leaves that CRCH. -/

namespace Sys2Proof.Machine

/-! ## Derived views -/

@[simp] theorem withCrch_search (s : State) (c : Word) : (s.withCrch c).search = s.search := rfl
@[simp] theorem withCrch_busy (s : State) (c : Word) : (s.withCrch c).busy = s.busy := rfl
@[simp] theorem withCrch_waiting (s : State) (c : Word) : (s.withCrch c).waiting = s.waiting := rfl
@[simp] theorem withCrch_frame (s : State) (c : Word) : (s.withCrch c).frame = s.frame := rfl
@[simp] theorem framingPass_withCrch (s : State) (c : Word) : framingPass (s.withCrch c) = framingPass s := rfl
@[simp] theorem registerAccepted_withCrch (count : Word) (hasRead hasWrite : Bool) (s : State) (c : Word) :
    registerAccepted count hasRead hasWrite (s.withCrch c) = registerAccepted count hasRead hasWrite s := rfl

/-! ## The shared operations -/

theorem receive_withCrch (bytes : List Byte) (s : State) (c : Word) :
    receive bytes (s.withCrch c) = (receive bytes s).withCrch c := by
  induction bytes generalizing s with
  | nil => rfl
  | cons x bytes ih => exact ih (receiveByte s x)

/-- The search goes on, or takes its exception, in the same way if the service does. -/
theorem matchPhase_withCrch {serve : State → State} {c : Word}
    (hserve : ∀ s : State, serve (s.withCrch c) = (serve s).withCrch c) (s : State) :
    matchPhase serve (s.withCrch c) = (matchPhase serve s).withCrch c := by
  unfold matchPhase
  rw [withCrch_search]
  cases s.search with
  | none => rfl
  | some k => exact hserve { s with sel := k }

theorem guardAndSearch_withCrch {serve : State → State} {c : Word}
    (hserve : ∀ s : State, serve (s.withCrch c) = (serve s).withCrch c) (func : Byte) (addr count : Word) (s : State) :
    guardAndSearch func addr count serve (s.withCrch c) = (guardAndSearch func addr count serve s).withCrch c := by
  unfold guardAndSearch
  dsimp only
  rw [withCrch_cfg]
  split
  · rfl
  · exact matchPhase_withCrch hserve { s with ph := .matching, func := func, addr := addr, count := count }

theorem readLoop_withCrch (n : Nat) (s : State) (c : Word) : readLoop n (s.withCrch c) = (readLoop n s).withCrch c := by
  induction n generalizing s with
  | zero => rfl
  | succ n ih =>
    unfold readLoop
    rw [withCrch_inputs]
    split
    · next ok v rest _ =>
      cases ok with
      | false => rfl
      | true => exact ih { completeRead true v { s with inputs := rest } with idx := s.idx + 1 }
    · rfl

theorem writeLoop_withCrch (n : Nat) (s : State) (c : Word) : writeLoop n (s.withCrch c) = (writeLoop n s).withCrch c := by
  induction n generalizing s with
  | zero => rfl
  | succ n ih =>
    unfold writeLoop
    rw [withCrch_inputs]
    split
    · next ok v rest _ =>
      cases ok with
      | false => rfl
      | true => exact ih { completeWrite true { s with inputs := rest } with idx := s.idx + 1 }
    · rfl

theorem readPhase_withCrch (s : State) (c : Word) : readPhase (s.withCrch c) = (readPhase s).withCrch c :=
  readLoop_withCrch _ { s with ph := .rd, idx := 0 } c

theorem writePhase_withCrch (rest : List Byte) (s : State) (c : Word) :
    writePhase rest (s.withCrch c) = (writePhase rest s).withCrch c :=
  writeLoop_withCrch _ { s with ph := .wr, idx := 0, valbuf := overwrite s.valbuf (payloadValues rest s),
                                draws := s.draws + s.cfg.rxcap } c

theorem resume_withCrch (s : State) (c : Word) : resume (s.withCrch c) = (resume s).withCrch c := by
  unfold resume
  rw [withCrch_ph]
  split
  · exact writeLoop_withCrch _ s c
  · exact readLoop_withCrch _ s c

/-! ## The instructions -/

/-- A result with CRCH put into its next state. -/
def Result.withCrch (r : Result) (c : Word) : Result := Result.map (fun t => t.withCrch c) r

theorem execRhr_withCrch (addr count : Word) (s : State) (c : Word) :
    execRhr addr count (s.withCrch c) = (execRhr addr count s).withCrch c :=
  congrArg _ (guardAndSearch_withCrch (readPhase_withCrch · c) _ _ _ s)

theorem execWmr_withCrch (addr count : Word) (rest : List Byte) (s : State) (c : Word) :
    execWmr addr count rest (s.withCrch c) = (execWmr addr count rest s).withCrch c :=
  congrArg _ (guardAndSearch_withCrch (writePhase_withCrch rest · c) _ _ _ s)

theorem decodePhase_withCrch (s : State) (c : Word) : decodePhase (s.withCrch c) = (decodePhase s).withCrch c := by
  unfold decodePhase
  rw [withCrch_frame]
  split
  · exact execRhr_withCrch _ _ s c
  · exact execWmr_withCrch _ _ _ s c
  · rfl

theorem checkPhase_withCrch (s : State) (c : Word) : checkPhase (s.withCrch c) = (checkPhase s).withCrch c := by
  unfold checkPhase
  rw [framingPass_withCrch]
  split
  · exact decodePhase_withCrch { s with ph := .decode } c
  · rfl

theorem deliver_withCrch (bytes : List Byte) (last : Bool) (s : State) (c : Word) :
    deliver bytes last (s.withCrch c) = (deliver bytes last s).withCrch c := by
  unfold deliver
  rw [receive_withCrch]
  split
  · exact checkPhase_withCrch { receive bytes s with ph := .check } c
  · rfl

theorem execProcess_withCrch (bytes : List Byte) (last : Bool) (s : State) (c : Word) :
    execProcess bytes last (s.withCrch c) = (execProcess bytes last s).withCrch c := by
  unfold execProcess
  rw [withCrch_ph]
  split
  · split
    · rfl
    · exact deliver_withCrch bytes last (startReception s) c
  · split
    · rfl
    · exact deliver_withCrch bytes last s c
  · rfl

theorem execConfig_withCrch (station : Byte) (s : State) (c : Word) :
    execConfig station (s.withCrch c) = (execConfig station s).withCrch c := by
  unfold execConfig
  rw [withCrch_busy]
  split <;> rfl

theorem execRegister_withCrch (base count : Word) (hasRead hasWrite : Bool) (s : State) (c : Word) :
    execRegister base count hasRead hasWrite (s.withCrch c) = (execRegister base count hasRead hasWrite s).withCrch c := by
  unfold execRegister
  rw [withCrch_busy, registerAccepted_withCrch]
  split
  · rfl
  · split <;> rfl

theorem execRspR_withCrch (station : Byte) (values : List Word) (s : State) (c : Word) :
    execRspR station values (s.withCrch c) = (execRspR station values s).withCrch c := by
  unfold execRspR
  rw [withCrch_cfg]
  split <;> rfl

/-- The operations that read or write CRCH: RESET (R36) and the host CRC port's three (R116 to R118). -/
def usesCrch : Instr → Bool
  | .reset | .crcInit | .crcByte _ | .crcRead => true
  | _ => false

theorem exec_withCrch {i : Instr} (hi : usesCrch i = false) (s : State) (c : Word) :
    exec i (s.withCrch c) = Result.withCrch (exec i s) c := by
  cases i with
  | rhr station addr count rest => exact execRhr_withCrch addr count s c
  | wmr station addr count rest => exact execWmr_withCrch addr count rest s c
  | illfn station func rest => rfl
  | rspR station values => exact execRspR_withCrch station values s c
  | rspW station addr count => rfl
  | rspE station func code => rfl
  | config station => exact execConfig_withCrch station s c
  | register base count hasRead hasWrite => exact execRegister_withCrch base count hasRead hasWrite s c
  | process bytes last => exact execProcess_withCrch bytes last s c
  | reset | crcInit | crcByte | crcRead => cases hi

/-! ## The steps -/

/-- What a step fetches, with CRCH put into the state that fetching leaves. -/
def Fetched.withCrch (c : Word) : Fetched → Fetched
  | .instr i s => .instr i (s.withCrch c)
  | .spurious s => .spurious (s.withCrch c)
  | f => f

theorem fetchInput_withCrch (s : State) (c : Word) : fetchInput (s.withCrch c) = (fetchInput s).withCrch c := by
  unfold fetchInput
  rw [withCrch_inputs, withCrch_waiting]
  split
  · split <;> rfl
  · split <;> rfl
  · rfl

theorem fetch_withCrch (s : State) (c : Word) : fetch (s.withCrch c) = (fetch s).withCrch c := by
  unfold fetch
  rw [withCrch_ph, fetchInput_withCrch, withCrch_waiting, withCrch_frame]
  cases s.ph
  case rd => dsimp only; split <;> rfl
  case wr => dsimp only; split <;> rfl
  case decode => dsimp only; split <;> rfl
  all_goals rfl

theorem continuePhase_withCrch (p : Phase) (s : State) (c : Word) :
    continuePhase p (s.withCrch c) = (continuePhase p s).withCrch c := by
  cases p with
  | check => exact checkPhase_withCrch s c
  | decode => exact decodePhase_withCrch s c
  | matching =>
    simp only [continuePhase, withCrch_func]
    split
    · exact congrArg _ (matchPhase_withCrch (readPhase_withCrch · c) s)
    · exact congrArg _ (matchPhase_withCrch (writePhase_withCrch _ · c) s)
  | rd => exact congrArg _ (readLoop_withCrch _ s c)
  | wdec => exact congrArg _ (writePhase_withCrch _ s c)
  | wr => exact congrArg _ (writeLoop_withCrch _ s c)
  | idle | recv | rrsp | wack | xrsp | send => rfl

theorem runFetched_withCrch {f : Fetched} (hf : ∀ i t, f = .instr i t → usesCrch i = false) (s : State) (c : Word) :
    runFetched (f.withCrch c) (s.withCrch c) = (runFetched f s).withCrch c := by
  cases f with
  | instr i t => exact exec_withCrch (hf i t rfl) t c
  | phase p => exact continuePhase_withCrch p s c
  | answered => exact congrArg _ (resume_withCrch s c)
  | spurious | nothing | stuck | refused => rfl

/-- A received frame decodes to a request kind. -/
theorem decodeRequest_usesCrch {f : List Byte} {i : Instr} (h : decodeRequest f = .ok i) : usesCrch i = false := by
  unfold decodeRequest at h
  split at h
  · cases h
  · split at h <;> cases h <;> rfl

theorem fetchInput_usesCrch {s : State} (h : ∀ e rest, s.inputs = .edge e :: rest → usesCrch (decodePort e) = false)
    {i : Instr} {t : State} (hf : fetchInput s = .instr i t) : usesCrch i = false := by
  unfold fetchInput at hf
  split at hf
  · split at hf <;> cases hf
  · split at hf <;> cases hf
  · next e rest hin => cases hf; exact h e rest hin

/-- Only an edge brings an operation that uses CRCH. -/
theorem fetch_usesCrch {s : State} (h : ∀ e rest, s.inputs = .edge e :: rest → usesCrch (decodePort e) = false)
    {i : Instr} {t : State} (hf : fetch s = .instr i t) : usesCrch i = false := by
  cases hph : s.ph <;> simp only [fetch, hph] at hf
  case idle | recv => exact fetchInput_usesCrch h hf
  case rd | wr =>
    split at hf
    · exact fetchInput_usesCrch h hf
    · cases hf
  case decode =>
    split at hf <;> cases hf
    next hi => exact decodeRequest_usesCrch hi
  all_goals cases hf <;> rfl

theorem step_withCrch {s : State} (h : ∀ e rest, s.inputs = .edge e :: rest → usesCrch (decodePort e) = false)
    (c : Word) : step (s.withCrch c) = Result.withCrch (step s) c := by
  rw [step, fetch_withCrch]
  exact runFetched_withCrch (fun _ _ hf => fetch_usesCrch h hf) s c

theorem usesCrch_eq_false {i : Instr} (hreset : i ≠ .reset) (hinit : i ≠ .crcInit) (hbyte : ∀ x, i ≠ .crcByte x)
    (hread : i ≠ .crcRead) : usesCrch i = false := by
  cases i with
  | reset => exact absurd rfl hreset
  | crcInit => exact absurd rfl hinit
  | crcByte x => exact absurd rfl (hbyte x)
  | crcRead => exact absurd rfl hread
  | _ => rfl

/-- Settles O38: every instruction that does not use CRCH, and every step that runs none that does, commutes with putting
another CRCH into the state. -/
theorem frameProcessorIgnoresHostCrc : Obligations.FrameProcessorIgnoresHostCrc := by
  refine ⟨fun i s c hreset hinit hbyte hread => exec_withCrch (usesCrch_eq_false hreset hinit hbyte hread) s c, ?_⟩
  intro s c h
  refine step_withCrch (fun e rest hin => ?_) c
  obtain ⟨hreset, hinit, hbyte, hread⟩ := h e rest hin
  exact usesCrch_eq_false hreset hinit hbyte hread

end Sys2Proof.Machine
end

section
/-! What a step observes: accessor calls inside the registered bindings, then at most one hand-over (20_memory.md sections
2, 3 and 6). -/

namespace Sys2Proof.Machine

/-! ## Calls inside the bindings -/

/-- A registered binding `k` has the accessor, and `a` is an address of its range, modulo 65536 (R52, R55). -/
def State.InRange (s : State) (accessor : Binding → Bool) (k : Nat) (a : Word) : Prop :=
  ∃ b, k < s.nb ∧ s.binds[k]? = some b ∧ accessor b = true ∧ ∃ n < b.cnt.toNat, a = b.base + BitVec.ofNat 16 n

/-- An accessor call that the binding table of `s` admits (R53, R54). -/
def State.CallInside (s : State) : Event → Prop
  | .accRead k a _ _ => s.InRange Binding.hr k a
  | .accWrite k a _ _ => s.InRange Binding.hw k a
  | .respond _ => False
  | .crcRead _ _ => False

theorem State.CallInside.isCall {s : State} {e : Event} (h : s.CallInside e) : e.isCall = true := by
  cases e with
  | accRead | accWrite => rfl
  | respond | crcRead => exact h.elim

/-- A call stays inside as long as the table does not change. -/
theorem State.CallInside.of_same {s t : State} {e : Event} (h : s.CallInside e) (hnb : t.nb = s.nb)
    (hbinds : t.binds = s.binds) : t.CallInside e := by
  cases e with
  | accRead | accWrite => simpa only [State.CallInside, State.InRange, hnb, hbinds] using h
  | respond | crcRead => exact h

/-- The binding a search finds is registered and matches the request (R139). -/
theorem State.search_some {s : State} {k : Nat} (h : s.search = some k) :
    ∃ b, k < s.nb ∧ s.binds[k]? = some b ∧ b.matches s.func s.addr s.count = true := by
  obtain ⟨i, rfl, ⟨b, hb, hm⟩, -⟩ := searchFrom_some h
  rw [Nat.zero_add]
  rw [List.getElem?_take] at hb
  split at hb
  · next hi => exact ⟨b, hi, hb, hm⟩
  · cases hb

/-- A request inside a binding's range reaches only addresses of that range (R55, R140). -/
theorem Binding.matches_offset {b : Binding} {func : Byte} {addr count : Word} (h : b.matches func addr count = true)
    {j : Nat} (hj : j < count.toNat) : ∃ n < b.cnt.toNat, addr + BitVec.ofNat 16 j = b.base + BitVec.ofNat 16 n := by
  simp only [Binding.matches, Bool.and_eq_true, decide_eq_true_eq] at h
  obtain ⟨⟨⟨hlow, -⟩, hhigh⟩, -⟩ := h
  refine ⟨addr.toNat - b.base.toNat + j, by omega, BitVec.eq_of_toNat_eq ?_⟩
  simp only [BitVec.toNat_add, BitVec.toNat_ofNat]
  omega

theorem Binding.serves_of_matches {b : Binding} {func : Byte} {addr count : Word}
    (h : b.matches func addr count = true) : b.serves func = true := by
  simp only [Binding.matches, Bool.and_eq_true] at h
  exact h.2

/-- The addresses a loop has still to do are of the binding its search found. -/
theorem State.Looping.inRange {s : State} {n : Nat} (h : s.Looping n) {accessor : Binding → Bool}
    (hacc : ∀ b : Binding, b.serves s.func = true → accessor b = true) {i : Nat} (hi : i < n) :
    s.InRange accessor s.sel (s.accAddr + BitVec.ofNat 16 i) := by
  obtain ⟨b, hk, hb, hm⟩ := State.search_some h.found
  have hj : s.idx + i < s.count.toNat := h.togo ▸ Nat.add_lt_add_left hi s.idx
  rw [State.accAddr, BitVec.add_assoc, ← BitVec.ofNat_add]
  exact ⟨b, hk, hb, hacc b (Binding.serves_of_matches hm), Binding.matches_offset hm hj⟩

/-! ## The calls of a loop -/

theorem endsLoop_length_le {n : Nat} {as : List (Bool × Word)} (h : endsLoop n as = true) : as.length ≤ n := by
  fun_induction endsLoop n as with
  | case1 => exact Nat.le_refl 0
  | case2 n v as ih => exact Nat.succ_le_succ (ih h)
  | case3 n v => exact Nat.succ_le_succ (Nat.zero_le n)
  | case4 => cases h

theorem add_one_add_ofNat (a : Word) (i : Nat) : a + 1#16 + BitVec.ofNat 16 i = a + BitVec.ofNat 16 (i + 1) := by
  rw [BitVec.ofNat_add, BitVec.add_comm (BitVec.ofNat 16 i), BitVec.add_assoc]

/-- Read calls go to one binding, at ascending addresses. -/
theorem mem_readCalls {k : Nat} {a : Word} {as : List (Bool × Word)} {e : Event} (h : e ∈ readCalls k a as) :
    ∃ i < as.length, ∃ ok v, e = .accRead k (a + BitVec.ofNat 16 i) ok v := by
  induction as generalizing a with
  | nil => cases h
  | cons p as ih =>
    rcases List.mem_cons.mp h with rfl | h
    · exact ⟨0, Nat.zero_lt_succ _, p.1, p.2, by simp⟩
    · obtain ⟨i, hi, ok, v, rfl⟩ := ih h
      exact ⟨i + 1, Nat.succ_lt_succ hi, ok, v, by rw [add_one_add_ofNat]⟩

/-- Write calls go to one binding, at ascending addresses. -/
theorem mem_writeCalls {k : Nat} {a : Word} {vs : List Word} {as : List (Bool × Word)} {e : Event}
    (h : e ∈ writeCalls k a vs as) : ∃ i < as.length, ∃ v ok, e = .accWrite k (a + BitVec.ofNat 16 i) v ok := by
  fun_induction writeCalls k a vs as with
  | case1 a v vs ok w as ih =>
    rcases List.mem_cons.mp h with rfl | h
    · exact ⟨0, Nat.zero_lt_succ _, v, ok, by simp⟩
    · obtain ⟨i, hi, v, ok, rfl⟩ := ih h
      exact ⟨i + 1, Nat.succ_lt_succ hi, v, ok, by rw [add_one_add_ofNat]⟩
  | case2 => cases h

theorem State.Looping.readCalls_inside {s : State} {n : Nat} (h : s.Looping n) (hfunc : s.func = 0x03#8)
    {as : List (Bool × Word)} (has : as.length ≤ n) : ∀ e ∈ readCalls s.sel s.accAddr as, s.CallInside e := by
  intro e he
  obtain ⟨i, hi, ok, v, rfl⟩ := mem_readCalls he
  exact h.inRange (by simp [Binding.serves, hfunc]) (Nat.lt_of_lt_of_le hi has)

theorem State.Looping.writeCalls_inside {s : State} {n : Nat} (h : s.Looping n) (hfunc : s.func = 0x10#8)
    (vs : List Word) {as : List (Bool × Word)} (has : as.length ≤ n) :
    ∀ e ∈ writeCalls s.sel s.accAddr vs as, s.CallInside e := by
  intro e he
  obtain ⟨i, hi, v, ok, rfl⟩ := mem_writeCalls he
  exact h.inRange (by simp [Binding.serves, hfunc]) (Nat.lt_of_lt_of_le hi has)

/-! ## Calls, then at most one hand-over -/

/-- From `s` to `t` the outside world has seen accessor calls inside the bindings of `s` and after them nothing, or one
hand-over that leaves the block idle (R57, R143, R175). -/
def State.TransactsTo (s t : State) : Prop :=
  ∃ calls, (∀ e ∈ calls, s.CallInside e) ∧
    (t.trace = s.trace ++ calls ∨ t.ph = .idle ∧ ∃ bytes, t.trace = s.trace ++ calls ++ [.respond bytes])

theorem State.TransactsTo.of_trace_eq {s t : State} (h : t.trace = s.trace := by rfl) : s.TransactsTo t :=
  ⟨[], by simp, .inl (h.trans (List.append_nil _).symm)⟩

/-- An update of neither the table nor the trace does not change what is seen after it. -/
theorem State.TransactsTo.of_start {s s' t : State} (h : s'.TransactsTo t) (hnb : s'.nb = s.nb := by rfl)
    (hbinds : s'.binds = s.binds := by rfl) (htrace : s'.trace = s.trace := by rfl) : s.TransactsTo t := by
  obtain ⟨calls, hcalls, hend⟩ := h
  exact ⟨calls, fun e he => (hcalls e he).of_same hnb.symm hbinds.symm, htrace ▸ hend⟩

/-- A response sent after calls inside the bindings. -/
theorem State.TransactsTo.emit_after_calls {s u : State} {calls : List Event} (hcalls : ∀ e ∈ calls, s.CallInside e)
    (htrace : u.trace = s.trace ++ calls) (bs : List Byte) : s.TransactsTo (emit bs u) := by
  obtain ⟨txbuf, crcf, frame, -, heq⟩ := emit_frame bs u
  rw [heq]
  exact ⟨calls, hcalls, .inr ⟨rfl, frame, by rw [← htrace]⟩⟩

/-- A response sent with no call before it. -/
theorem State.TransactsTo.emit_only {s u : State} (bs : List Byte) (htrace : u.trace = s.trace := by rfl) :
    s.TransactsTo (emit bs u) :=
  .emit_after_calls (calls := []) (by simp) (htrace.trans (List.append_nil _).symm) bs

theorem State.Looping.readLoop_transacts {s : State} {n : Nat} (h : s.Looping n) (hfunc : s.func = 0x03#8) :
    s.TransactsTo (readLoop n s) := by
  obtain ⟨as, rest, -, ⟨hends, heq⟩ | ⟨-, hlt, -, heq⟩⟩ := readLoop_cases n s h.idx_le <;> rw [heq]
  · exact .emit_after_calls (h.readCalls_inside hfunc (endsLoop_length_le hends)) rfl _
  · exact ⟨_, h.readCalls_inside hfunc (Nat.le_of_lt hlt), .inl rfl⟩

theorem State.Looping.writeLoop_transacts {s : State} {n : Nat} (h : s.Looping n) (hfunc : s.func = 0x10#8) :
    s.TransactsTo (writeLoop n s) := by
  obtain ⟨as, rest, -, ⟨hends, heq⟩ | ⟨-, hlt, -, heq⟩⟩ := writeLoop_cases n s h.idx_le <;> rw [heq]
  · exact .emit_after_calls (h.writeCalls_inside hfunc _ (endsLoop_length_le hends)) rfl _
  · exact ⟨_, h.writeCalls_inside hfunc _ (Nat.le_of_lt hlt), .inl rfl⟩

/-- A waiting transaction that goes on. -/
theorem State.Inv.resume_transacts {s : State} (h : s.Inv) (hw : s.waiting = true) : s.TransactsTo (resume s) := by
  rcases State.waiting_phase hw with hph | hph <;> simp only [resume, hph]
  · obtain ⟨hfunc, hserving⟩ := h.reading hph
    exact (hserving.looping h.sound).readLoop_transacts hfunc
  · obtain ⟨hfunc, hserving⟩ := h.writing hph
    exact (hserving.looping h.sound).writeLoop_transacts hfunc

/-! ## Requests -/

theorem State.Sound.readPhase_transacts {s : State} (h : s.Sound) (hfunc : s.func = 0x03#8)
    (hguard : s.count.toNat ≤ s.cfg.maxReg.val) (hfound : s.search = some s.sel) : s.TransactsTo (readPhase s) :=
  .of_start <| State.Looping.readLoop_transacts ⟨h.of_same, hguard, hfound, Nat.zero_add _⟩ hfunc

theorem State.Sound.writePhase_transacts {s : State} (h : s.Sound) (rest : List Byte) (hfunc : s.func = 0x10#8)
    (hguard : s.count.toNat ≤ s.cfg.maxReg.val) (hfound : s.search = some s.sel) :
    s.TransactsTo (writePhase rest s) :=
  .of_start <| State.Looping.writeLoop_transacts
    ⟨h.of_same rfl rfl rfl (overwrite_length _ _), hguard, hfound, Nat.zero_add _⟩ hfunc

/-- DECODE and MATCH: an exception, with no call, or the service of a found binding (R137, R139, R141). -/
theorem State.Sound.guardAndSearch_transacts {s : State} (h : s.Sound) (func : Byte) (addr count : Word)
    (serve : State → State)
    (hserve : ∀ t : State, t.Sound → t.func = func → t.count.toNat ≤ t.cfg.maxReg.val → t.search = some t.sel →
      t.TransactsTo (serve t)) : s.TransactsTo (guardAndSearch func addr count serve s) := by
  obtain ⟨-, heq⟩ | ⟨-, -, heq⟩ | ⟨k, hguard, hfound, heq⟩ := guardAndSearch_cases func addr count serve s
  all_goals rw [heq]
  · exact .emit_only _
  · exact .emit_only _
  · exact (hserve _ h.of_same rfl hguard hfound).of_start

theorem State.Sound.execRhr_transacts {s t : State} (h : s.Sound) {addr count : Word}
    (heq : execRhr addr count s = .next t) : s.TransactsTo t := by
  cases heq
  exact h.guardAndSearch_transacts _ _ _ _ fun _ ht hfunc hguard hfound => ht.readPhase_transacts hfunc hguard hfound

theorem State.Sound.execWmr_transacts {s t : State} (h : s.Sound) {addr count : Word} {rest : List Byte}
    (heq : execWmr addr count rest s = .next t) : s.TransactsTo t := by
  cases heq
  exact h.guardAndSearch_transacts _ _ _ _ fun _ ht hfunc hguard hfound =>
    ht.writePhase_transacts rest hfunc hguard hfound

theorem execIllfn_transacts {s t : State} {func : Byte} (heq : execIllfn func s = .next t) : s.TransactsTo t := by
  cases heq
  exact .emit_only _

/-! ## Reception -/

theorem State.Sound.decodePhase_transacts {s t : State} (h : s.Sound) (heq : decodePhase s = .next t) :
    s.TransactsTo t := by
  unfold decodePhase at heq
  split at heq
  · exact h.execRhr_transacts heq
  · exact h.execWmr_transacts heq
  · exact execIllfn_transacts heq

theorem State.Sound.checkPhase_transacts {s t : State} (h : s.Sound) (heq : checkPhase s = .next t) :
    s.TransactsTo t := by
  unfold checkPhase at heq
  split at heq
  · exact (State.Sound.decodePhase_transacts h.of_same heq).of_start
  · cases heq
    exact .of_trace_eq

theorem State.Sound.deliver_transacts {s t : State} (h : s.Sound) (hlen : s.len ≤ s.cfg.rxcap) {bytes : List Byte}
    {last : Bool} (heq : deliver bytes last s = .next t) : s.TransactsTo t := by
  have hsound := (h.receive hlen bytes).1
  unfold deliver at heq
  rw [receive_eq bytes s hlen h.sized.rxbuf_length] at heq hsound
  split at heq
  · exact (State.Sound.checkPhase_transacts hsound.of_same heq).of_start
  · cases heq
    exact .of_trace_eq

theorem State.Inv.execProcess_transacts {s t : State} (h : s.Inv) {bytes : List Byte} {last : Bool}
    (heq : execProcess bytes last s = .next t) : s.TransactsTo t := by
  unfold execProcess at heq
  split at heq
  case h_1 =>
    split at heq
    · cases heq; exact .of_trace_eq
    · have hstart : (startReception s).Sound := h.sound.of_same
      exact (hstart.deliver_transacts (Nat.zero_le _) heq).of_start
  case h_2 hph =>
    split at heq
    · cases heq; exact .of_trace_eq
    · have hlen : s.len ≤ s.cfg.rxcap := by simpa only [State.RestsWell, hph] using h.rests
      exact h.sound.deliver_transacts hlen heq
  case h_3 => cases heq

/-! ## Configuration: nothing is seen -/

theorem execConfig_transacts {s t : State} {station : Byte} (heq : execConfig station s = .next t) :
    s.TransactsTo t := by
  unfold execConfig at heq
  split at heq <;> cases heq
  exact .of_trace_eq

theorem execRegister_transacts {s t : State} {base count : Word} {hasRead hasWrite : Bool}
    (heq : execRegister base count hasRead hasWrite s = .next t) : s.TransactsTo t := by
  unfold execRegister at heq
  split at heq
  · cases heq
  · split at heq <;> cases heq <;> exact .of_trace_eq

theorem execRspR_transacts {s t : State} {station : Byte} {values : List Word}
    (heq : execRspR station values s = .next t) : s.TransactsTo t := by
  unfold execRspR at heq
  split at heq <;> cases heq
  exact .emit_only _

/-! ## Instructions and steps -/

/-- Every instruction but CRC.READ lets the outside world see calls inside the bindings and at most one hand-over. -/
theorem State.Inv.exec_observes {i : Instr} {s t : State} (h : s.Inv) (heq : exec i s = .next t) :
    (∃ c z, t.trace = s.trace ++ [.crcRead c z]) ∨ s.TransactsTo t := by
  cases i with
  | crcRead => cases heq; exact .inl ⟨_, _, rfl⟩
  | rhr station addr count rest => exact .inr (h.sound.execRhr_transacts heq)
  | wmr station addr count rest => exact .inr (h.sound.execWmr_transacts heq)
  | illfn station func rest => exact .inr (execIllfn_transacts heq)
  | rspR station values => exact .inr (execRspR_transacts heq)
  | process bytes last => exact .inr (h.execProcess_transacts heq)
  | config station => exact .inr (execConfig_transacts heq)
  | register base count hasRead hasWrite => exact .inr (execRegister_transacts heq)
  | rspW | rspE => cases heq; exact .inr (.emit_only _)
  | reset | crcInit | crcByte => cases heq; exact .inr .of_trace_eq

/-- What one step lets the outside world see (R57, R118, R143, R175). -/
theorem State.Inv.step_observes {s t : State} (h : s.Inv) (heq : step s = .next t) :
    (∃ c z, t.trace = s.trace ++ [.crcRead c z]) ∨ s.TransactsTo t := by
  obtain ⟨-, rfl⟩ | ⟨hw, rfl⟩ | ⟨ok, v, rest, -, rfl⟩ | ⟨e, rest, -, hexec⟩ := h.step_cases heq
  · exact .inr .of_trace_eq
  · exact .inr (h.resume_transacts hw)
  · exact .inr .of_trace_eq
  · exact (h.withInputs _).exec_observes hexec |>.imp_right (·.of_start)

/-- Settles O39: what a step observes is a CRC.READ, or calls and at most one hand-over, which leaves the block idle. -/
theorem stepObservesCallsThenAtMostOneResponse : Obligations.StepObservesCallsThenAtMostOneResponse := by
  intro s t h heq
  obtain hread | ⟨calls, hcalls, hend⟩ := h.step_observes heq
  · exact .inl hread
  have hisCall : ∀ e ∈ calls, e.isCall = true := fun e he => (hcalls e he).isCall
  rcases hend with htrace | ⟨hidle, bytes, htrace⟩
  · exact .inr ⟨calls, [], by simpa using htrace, hisCall, by simp⟩
  · exact .inr ⟨calls, [.respond bytes], htrace, hisCall, by simp [Event.isRespond], by simp, fun _ => hidle⟩

/-- The events of a step add to the trace, and the calls among them are inside the bindings. -/
theorem State.Inv.step_calls_inside {s t : State} (h : s.Inv) (heq : step s = .next t) :
    ∃ new, t.trace = s.trace ++ new ∧ ∀ e ∈ new, e.isCall = true → s.CallInside e := by
  obtain ⟨c, z, htrace⟩ | ⟨calls, hcalls, htrace | ⟨-, bytes, htrace⟩⟩ := h.step_observes heq
  · exact ⟨_, htrace, by simp [Event.isCall]⟩
  · exact ⟨calls, htrace, fun e he _ => hcalls e he⟩
  · refine ⟨calls ++ [.respond bytes], by rw [htrace, List.append_assoc], fun e he hcall => ?_⟩
    rcases List.mem_append.mp he with he | he
    · exact hcalls e he
    · cases List.mem_singleton.mp he; cases hcall

/-- Settles O40: the calls among the events of a step are inside the bindings. -/
theorem callsStayInsideTheBindings : Obligations.CallsStayInsideTheBindings := by
  intro s t h heq
  obtain ⟨new, htrace, hinside⟩ := h.step_calls_inside heq
  exact ⟨new, htrace, fun _ _ _ _ he => hinside _ he rfl, fun _ _ _ _ he => hinside _ he rfl⟩

end Sys2Proof.Machine
end

section
/-! Requests, responses and table words, byte by byte (30_encoding.md sections 1 to 3 and 5). -/

namespace Sys2Proof

/-! ## Requests: the function-code map (R87, R88) -/

/-- Every frame of at least 7 bytes is a request of the kind its function code gives. -/
theorem decodeRequest_of_length {f : List Byte} (h : 7 ≤ f.length) :
    decodeRequest f = .ok
      (if frameFunc f = 0x03#8 then .rhr (frameStation f) (frameAddr f) (frameCount f) (f.drop 6)
       else if frameFunc f = 0x10#8 then .wmr (frameStation f) (frameAddr f) (frameCount f) (f.drop 6)
       else .illfn (frameStation f) (frameFunc f) (f.drop 2)) := by
  simp only [decodeRequest, if_neg (Nat.not_lt.mpr h), requestKind]
  by_cases h3 : frameFunc f = 0x03#8
  · simp only [if_pos h3]
  · by_cases h10 : frameFunc f = 0x10#8
    · simp only [if_neg h3, if_pos h10]
    · simp only [if_neg h3, if_neg h10]

/-- Settles O19: the operands are the 16-bit numbers of bytes 2 and 3 and of bytes 4 and 5, high byte first. -/
theorem functionCodeMapIsComplete : Obligations.FunctionCodeMapIsComplete := by
  intro b0 b1 b2 b3 b4 b5 rest hrest
  have hlen : 7 ≤ (b0 :: b1 :: b2 :: b3 :: b4 :: b5 :: rest).length := by
    have := List.length_pos_iff.mpr hrest
    simp only [List.length_cons]; omega
  exact ⟨be16 b2 b3, be16 b4 b5, be16_toNat b2 b3, be16_toNat b4 b5, decodeRequest_of_length hlen⟩

/-! ## Responses: the values, and the CRC behind the bytes it covers (R84 to R86, R119) -/

theorem le16_lo_hi (v : Word) : le16 (lo v) (hi v) = v := be16_hi_lo v

/-- Each value takes two bytes, its high byte first. -/
theorem valueBytes_getElem? (vs : List Word) (i : Nat) :
    (valueBytes vs)[2 * i]? = vs[i]?.map hi ∧ (valueBytes vs)[2 * i + 1]? = vs[i]?.map lo := by
  induction vs generalizing i with
  | nil => simp [valueBytes]
  | cons v vs ih =>
    cases i with
    | zero => simp [valueBytes]
    | succ i => simpa [valueBytes, Nat.mul_succ] using ih i

theorem crcAppend_getElem?_of_lt {m : List Byte} {i : Nat} (h : i < m.length) : (crcAppend m)[i]? = m[i]? :=
  List.getElem?_append_left h

theorem crcAppend_take (m : List Byte) : (crcAppend m).take m.length = m := List.take_left

theorem crcAppend_crc_lo (m : List Byte) : (crcAppend m)[m.length]? = some (lo (crc16 m)) := by simp [crcAppend]

theorem crcAppend_crc_hi (m : List Byte) : (crcAppend m)[m.length + 1]? = some (hi (crc16 m)) := by simp [crcAppend]

/-- Settles O23: the first bytes are written out by the formats; the values, and the CRC over what stands before
it, each have their own lemma. -/
theorem responseFormatsByteByByte : Obligations.ResponseFormatsByteByByte := by
  refine ⟨fun st vs hvs => ?read, fun st a c => ?write, fun st fn code => ?exception⟩
  case read =>
    have hlen : (readResponseBytes st vs).length = 3 + 2 * vs.length := readResponseBytes_length st vs
    refine ⟨crcAppend (readResponseBytes st vs), rfl, by rw [crcAppend_length, hlen]; omega, rfl, rfl,
      ⟨_, rfl, ?count⟩, fun i v hv => ?value, ?crcLo, ?crcHi⟩
    case count => simp only [BitVec.toNat_ofNat]; omega
    case value =>
      have hi_lt : i < vs.length := (List.getElem?_eq_some_iff.mp hv).1
      obtain ⟨hhi, hlo⟩ := valueBytes_getElem? vs i
      rw [hv] at hhi hlo
      rw [crcAppend_getElem?_of_lt (by omega), crcAppend_getElem?_of_lt (by omega), Nat.add_comm 3, Nat.add_comm 4]
      exact ⟨hhi, hlo⟩
    case crcLo => rw [← hlen, crcAppend_take]; exact crcAppend_crc_lo _
    case crcHi =>
      rw [← hlen, crcAppend_take, show 4 + 2 * vs.length = (readResponseBytes st vs).length + 1 by omega]
      exact crcAppend_crc_hi _
  case write => exact ⟨_, _, rfl, le16_lo_hi _⟩
  case exception => exact ⟨code.byte, _, _, rfl, by cases code <;> rfl, le16_lo_hi _⟩

/-! ## Words written out -/

theorem decodeExcCode_byte (code : ExcCode) : decodeExcCode code.byte = .ok code := by cases code <;> rfl

/-- Bit 7 tells an exception response from the two others (R86). -/
theorem decodeResponse_exception (st : Byte) {fn : Byte} (hbit : fn.getLsbD 7 = true) (code : ExcCode) :
    decodeResponse (crcAppend (exceptionBytes st fn code)) = .ok (.rspE st fn code) := by
  have hlen : (crcAppend (exceptionBytes st fn code)).length = 5 := rfl
  have hfunc : frameFunc (crcAppend (exceptionBytes st fn code)) = fn := rfl
  have hstation : frameStation (crcAppend (exceptionBytes st fn code)) = st := rfl
  have hcode : (crcAppend (exceptionBytes st fn code)).getD 2 0 = code.byte := rfl
  have h3 : fn ≠ 0x03#8 := by rintro rfl; cases hbit
  have h10 : fn ≠ 0x10#8 := by rintro rfl; cases hbit
  rw [decodeResponse, hlen, if_neg (by decide), crc16_crcAppend, if_neg (by decide), hfunc, if_neg h3, if_neg h10,
    if_pos hbit, if_pos rfl, hcode, decodeExcCode_byte, hstation]

/-- Settles O22: the requests by the function-code map, the exception response as a terminated frame, the strobe vectors
one bit each. -/
theorem sampleWordsDecode : Obligations.SampleWordsDecode := by
  refine ⟨decodeRequest_of_length (by decide), decodeRequest_of_length (by decide),
    decodeRequest_of_length (by decide), ?response, rfl, rfl, rfl, rfl, rfl, rfl⟩
  case response =>
    have hframe : [0x11, 0x86, 0x01, 0x82, 0x65] = crcAppend (exceptionBytes 0x11 0x86 .illegalFunction) := by
      decide +kernel
    rw [hframe]
    exact decodeResponse_exception 0x11 (by decide) .illegalFunction

/-! ## Table words (R93) -/

theorem decodeTableWord_edge {nbits : Nat} (h : nbits ≤ 8) {w : Nat} {i : Instr}
    (hi : decodeTableWord nbits w = some i) : decodePort (tableEdge w) = i := by
  rw [decodeTableWord, if_pos h] at hi
  split at hi
  · exact Option.some.inj hi
  · cases hi

theorem decodeTableWord_frame {nbits : Nat} (h : ¬ nbits ≤ 8) {w : Nat} {i : Instr}
    (hi : decodeTableWord nbits w = some i) : decodeRequest (tableFrame w) = .ok i := by
  rw [decodeTableWord, if_neg h] at hi
  split at hi
  · next hdec => rw [hdec, Option.some.inj hi]
  · cases hi

end Sys2Proof

namespace Sys2Proof.Machine

/-- A frame written over the start of RXBUF, with LEN its length, is the received frame (R26, R34). -/
theorem frame_of_overwrite {s : State} {buf f : List Byte} (hbuf : s.rxbuf = overwrite buf f) (hlen : s.len = f.length)
    (hfits : f.length ≤ buf.length) : s.frame = f := by
  rw [State.frame, hbuf, hlen, overwrite_take buf f hfits]

/-- Settles O35: a short word is the edge that IDLE takes next, a longer one the frame that DECODE reads from RXBUF. -/
theorem placedTableWordIsRun : Obligations.PlacedTableWordIsRun := by
  intro s nbits w i hs hi
  rw [State.withFetchWord, placeWord]
  by_cases hshort : nbits ≤ 8
  · rw [if_pos hshort, if_pos hshort, ← decodeTableWord_edge hshort hi]
    exact step_edge (.inl rfl) rfl
  · rw [if_neg hshort, if_neg hshort]
    have hfits : (tableFrame w).length ≤ s.rxbuf.length := hs.rxbuf_length ▸ rxcap_ge s.cfg
    refine step_decode rfl ?_
    rw [frame_of_overwrite rfl rfl hfits]
    exact decodeTableWord_frame hshort hi

end Sys2Proof.Machine
end

section
/-! The CRC Engine: the forms of the byte update, the two validation tests, and what one changed byte does to a frame
(40_crc_engine.md). -/

namespace Sys2Proof

/-! ## The other forms of the byte update (R112) -/

@[simp] theorem lo_zeroExtend (x : Byte) : lo (x.zeroExtend 16) = x := by
  ext i hi'; simp [lo, hi', Nat.lt_trans hi' (by decide : 8 < 16)]

theorem lo_xor (a b : Word) : lo (a ^^^ b) = lo a ^^^ lo b := by
  ext i hi'; simp [lo]

/-- The byte that stands alone in the register's low half leaves nothing behind. -/
theorem crcByte_zeroExtend (x : Byte) : crcByte (x.zeroExtend 16) x = 0#16 := by
  have hshift := crcByte_lo (x.zeroExtend 16)
  rw [lo_zeroExtend] at hshift
  rw [hshift]
  ext i hi'; simp

/-- Adding the byte into the low half first and then updating with the zero byte. -/
theorem crcByte_eq_crcByte_zero (c : Word) (x : Byte) : crcByte c x = crcByte (c ^^^ x.zeroExtend 16) 0#8 := by
  calc crcByte c x
      = crcByte c x ^^^ crcByte (x.zeroExtend 16) x := by rw [crcByte_zeroExtend, BitVec.xor_zero]
    _ = crcByte (c ^^^ x.zeroExtend 16) 0#8 := by rw [← crcByte_xor, BitVec.xor_self]

/-- With the zero byte every iteration feeds back exactly on the bit shifted out (R111). -/
theorem crcByte_zero (c : Word) :
    crcByte c 0#8 =
      (List.range 8).foldl (fun c _ => if c.getLsbD 0 then (c >>> 1) ^^^ 0xA001#16 else c >>> 1) c := by
  simp only [crcByte, crcBit, BitVec.getLsbD_zero, Bool.xor_false]

/-- The table form: the register's own low byte only shifts, and by linearity the difference to it goes through the table. -/
theorem crcByte_eq_table (c : Word) (x : Byte) :
    crcByte c x = (c >>> 8) ^^^ crcTable (lo (c ^^^ x.zeroExtend 16)) := by
  have hbyte : lo c ^^^ (lo c ^^^ x) = x := by rw [← BitVec.xor_assoc, BitVec.xor_self, BitVec.zero_xor]
  rw [lo_xor, lo_zeroExtend, crcTable, ← crcByte_lo, ← crcByte_xor, hbyte, BitVec.xor_zero]

/-- Settles O11: by linearity, from the byte that cancels itself and from the byte that only shifts. -/
theorem crcByteFormsAgree : Obligations.CrcByteFormsAgree := fun c x =>
  ⟨(crcByte_eq_crcByte_zero c x).trans (crcByte_zero _), crcByte_eq_table c x⟩

/-! ## The two validation tests (R115, R119, R121 (a)) -/

/-- Settles O12: the sequence is the frame terminated with its CRC. -/
theorem terminatedFrameHasResidueZero : Obligations.TerminatedFrameHasResidueZero := crc16_crcAppend

/-- The two bytes of a register value, low byte first, bring the register to 0. -/
theorem crcFrom_le16 (l h : Byte) : crcFrom (le16 l h) [l, h] = 0x0000#16 := by
  have hl : crcByte (le16 l h) l = le16 l h >>> 8 := by
    simpa only [le16_eq_be16, lo_be16] using crcByte_lo (be16 h l)
  have hh : crcByte (le16 l h >>> 8) h = le16 l h >>> 8 >>> 8 := by
    simpa only [lo_ushiftRight_eight, le16_eq_be16, hi_be16] using crcByte_lo (be16 h l >>> 8)
  rw [crcFrom_cons, crcFrom_cons, crcFrom_nil, hl, hh, ← BitVec.shiftRight_add]
  exact BitVec.ushiftRight_eq_zero (Nat.le_refl 16)

/-- Bit 15 of the result says whether the iteration fed back: a plain shift clears it, and the polynomial sets it. -/
theorem crcBit_getLsbD_15 (c : Word) (d : Bool) : (crcBit c d).getLsbD 15 = (c.getLsbD 0 ^^ d) := by
  rw [crcBit]
  split
  · next hfed => simpa using hfed
  · next hfed => simpa using hfed

/-- An iteration loses nothing: bit 15 gives the bit shifted out, and taking the feedback away gives the others. -/
theorem crcBit_injective (d : Bool) : Function.Injective (crcBit · d) := by
  intro a b (h : crcBit a d = crcBit b d)
  have h0 : a.getLsbD 0 = b.getLsbD 0 := by
    have hfed := congrArg (BitVec.getLsbD · 15) h
    simpa only [crcBit_getLsbD_15, Bool.xor_left_inj] using hfed
  have hshift : a >>> 1 = b >>> 1 := by
    simp only [crcBit, h0] at h
    split at h
    · exact (BitVec.xor_left_inj _).mp h
    · exact h
  ext i hi'
  rw [← BitVec.getLsbD_eq_getElem, ← BitVec.getLsbD_eq_getElem]
  cases i with
  | zero => exact h0
  | succ i => simpa [Nat.add_comm 1 i] using congrArg (BitVec.getLsbD · i) hshift

theorem crcByte_injective (x : Byte) : Function.Injective (crcByte · x) :=
  fun _ _ h => by
    simp only [crcByte_unfold] at h
    iterate 8 replace h := crcBit_injective _ h
    exact h

/-- After the same bytes, equal register values come from equal ones. -/
theorem crcFrom_injective (bs : List Byte) : Function.Injective (crcFrom · bs) := by
  induction bs with
  | nil => exact Function.injective_id
  | cons x bs ih => exact ih.comp (crcByte_injective x)

/-- Settles O13: the bytes `l` and `h` bring their own 16-bit number to 0, and no other register value. -/
theorem validationFormsAgree : Obligations.ValidationFormsAgree := by
  intro m l h
  rw [crc16_append, ← crcFrom_le16 l h]
  exact (crcFrom_injective [l, h]).eq_iff.symm

/-! ## One changed byte (R121 (e)) -/

/-- From one register value, different bytes lead to different ones. -/
theorem crcByte_injective_right (c : Word) : Function.Injective (crcByte c) := by
  intro x y h
  rw [crcByte_eq_crcByte_zero c x, crcByte_eq_crcByte_zero c y] at h
  have hword : x.zeroExtend 16 = y.zeroExtend 16 := (BitVec.xor_right_inj c).mp (crcByte_injective 0#8 h)
  rw [← lo_zeroExtend x, hword, lo_zeroExtend]

/-- A checksum changes with any one byte. -/
theorem crc16_changed_byte {a b : List Byte} {x y : Byte} (h : crc16 (a ++ x :: b) = crc16 (a ++ y :: b)) : x = y := by
  simp only [crc16_append, crcFrom_cons] at h
  exact crcByte_injective_right _ (crcFrom_injective b h)

end Sys2Proof

namespace Sys2Proof.Machine

/-- A residue other than 0 drops the frame, whatever the two other tests say (R132, R133). -/
theorem checkPhase_of_residue {s : State} (h : s.crcf ≠ 0x0000#16) : checkPhase s = .next (dropFrame s) := by
  have hfail : framingPass s = false := by simp [framingPass, h]
  rw [checkPhase, hfail]
  rfl

/-- A frame whose residue is not 0 is received and dropped: nothing but RXBUF, LEN and CRCF changes (R131, R133). -/
theorem execProcess_of_residue {s : State} (hsized : s.Sized) (hph : s.ph = .idle) {f : List Byte} (hne : f ≠ [])
    (hcrc : crc16 f ≠ 0x0000#16) :
    execProcess f true s =
      .next { s with rxbuf := overwrite s.rxbuf f, crcf := crc16 f, len := min f.length s.cfg.rxcap } := by
  rw [execProcess_idle hph hne, deliver, if_pos rfl, receive_start_eq f s hsized.rxbuf_length, checkPhase_of_residue hcrc,
    dropFrame, endTransaction, ← hph]

/-- Settles O14: the accepted frame has residue 0, so the changed one has not. -/
theorem singleByteErrorIsDropped : Obligations.SingleByteErrorIsDropped := by
  intro s a b x y hsized hph hacc hxy
  have hzero : crc16 (a ++ x :: b) = 0x0000#16 := by
    simp only [State.accepts, Bool.and_eq_true, beq_iff_eq] at hacc
    exact hacc.2
  have hcrc : crc16 (a ++ y :: b) ≠ 0x0000#16 := fun h => hxy (crc16_changed_byte (hzero.trans h.symm))
  exact ⟨_, execProcess_of_residue hsized hph (by simp) hcrc, hph, rfl⟩

/-! ## The host CRC port (R116 to R118) -/

theorem exec_crcInit (s : State) : exec .crcInit s = .next (s.withCrch 0xFFFF#16) := rfl

theorem exec_crcByte (x : Byte) (s : State) : exec (.crcByte x) s = .next (s.withCrch (crcByte s.crch x)) := rfl

theorem exec_crcRead (s : State) :
    exec .crcRead s = .next (observe (.crcRead s.crch (decide (s.crch = 0x0000#16))) s) := rfl

/-- Settles O9: each operation by its equation; none of them asks for the phase. -/
theorem hostCrcOperations : Obligations.HostCrcOperations :=
  ⟨exec_crcInit, fun s x => exec_crcByte x s, exec_crcRead⟩

/-- One CRC.BYTE for each byte of a span takes CRCH over the span (R117, R121 (b)). -/
theorem execAll_crcBytes (span : List Byte) (is : List Instr) (s : State) :
    execAll (span.map .crcByte ++ is) s = execAll is (s.withCrch (crcFrom s.crch span)) := by
  induction span generalizing s with
  | nil => rfl
  | cons x span ih =>
    rw [List.map_cons, List.cons_append, execAll_cons_of_next (exec_crcByte x s), ih, withCrch_crch, crcFrom_cons]
    rfl

/-- Settles O10: CRC.INIT starts the fold, the span runs it, CRC.READ shows it. -/
theorem hostSpanComputesCrc16 : Obligations.HostSpanComputesCrc16 := by
  intro s span
  rw [execAll_cons_of_next (exec_crcInit s), execAll_crcBytes, execAll_singleton, exec_crcRead]
  rfl

end Sys2Proof.Machine
end

section
/-! Reception and the framing checks of a whole frame (41_frame_validation.md sections 1 and 2). -/

namespace Sys2Proof

/-- What a frame written over a buffer leaves to read, as far as the buffer reaches. -/
theorem overwrite_take_min {α : Type} (buf vs : List α) :
    (overwrite buf vs).take (min vs.length buf.length) = vs.take buf.length := by
  induction buf generalizing vs with
  | nil => simp
  | cons a buf ih => cases vs <;> simp [Nat.add_min_add_right, ih]

end Sys2Proof

namespace Sys2Proof.Machine

/-- The state in phase `p` of a block that has received the whole frame `f` and done nothing else (R131). -/
def State.received (s : State) (f : List Byte) (p : Phase) : State :=
  { s with ph := p, rxbuf := overwrite s.rxbuf f, len := min f.length s.cfg.rxcap, crcf := crc16 f }

theorem receive_start_eq_received {s : State} (h : s.Sized) (f : List Byte) :
    receive f (startReception s) = s.received f .recv :=
  receive_start_eq f s h.rxbuf_length

/-- The stored frame is the received one, as far as RXBUF reaches (R26, R34). -/
theorem State.Sized.received_frame {s : State} (h : s.Sized) (f : List Byte) (p : Phase) :
    (s.received f p).frame = f.take s.cfg.rxcap := by
  have htake := overwrite_take_min s.rxbuf f
  rwa [h.rxbuf_length] at htake

/-- Settles O15: a delivery that is not the last leaves the block in RECV, its bytes received. -/
theorem receptionStoresCountsAndChecksums : Obligations.ReceptionStoresCountsAndChecksums := by
  intro s f hsized hph hne
  have hexec : exec (.process f false) s = .next (s.received f .recv) := by
    rw [← receive_start_eq_received hsized f]
    exact execProcess_idle hph hne false
  have hget (j : Nat) : (s.received f .recv).rxbuf[j]? =
      if j < f.length ∧ j < s.cfg.rxcap then f[j]? else s.rxbuf[j]? := by
    rw [← hsized.rxbuf_length]; exact overwrite_getElem? s.rxbuf f j
  refine ⟨_, hexec, rfl, fun j hj => ?_, fun j hj => ?_, rfl, rfl, rfl⟩
  · rw [hget, if_pos (Nat.lt_min.mp hj)]
  · rw [hget, if_neg fun hlt => Nat.not_lt.mpr hj (Nat.lt_min.mpr hlt)]

/-! ## The framing tests (R132, R133) -/

/-- A frame is accepted if it is long enough, for this station and intact. -/
theorem State.accepts_iff {s : State} {f : List Byte} :
    s.accepts f = true ↔ 7 ≤ f.length ∧ f[0]? = some s.station ∧ crc16 f = 0x0000#16 := by
  cases f with
  | nil => simp [State.accepts]
  | cons b f => simp [State.accepts, frameStation, and_assoc]

theorem State.ne_nil_of_accepts {s : State} {f : List Byte} (h : s.accepts f = true) : f ≠ [] := by
  rintro rfl
  cases h

/-- CHECK tests the frame on what reception has stored, counted and checksummed of it. -/
theorem framingPass_received {s : State} (h : s.Sized) (f : List Byte) :
    framingPass (s.received f .check) = s.accepts f := by
  have hcap : 7 ≤ s.rxbuf.length := h.rxbuf_length ▸ rxcap_ge s.cfg
  have hlen : 7 ≤ min f.length s.cfg.rxcap ↔ 7 ≤ f.length :=
    Nat.le_min.trans (and_iff_left (rxcap_ge s.cfg))
  have hfirst (hf : 7 ≤ f.length) : (overwrite s.rxbuf f).getD 0 0 = frameStation f := by
    rw [frameStation, List.getD_eq_getElem?_getD, List.getD_eq_getElem?_getD, overwrite_getElem?,
      if_pos ⟨by omega, by omega⟩]
  simp only [framingPass, State.accepts, State.received, hlen]
  by_cases hf : 7 ≤ f.length
  · rw [hfirst hf]
  · simp only [hf, decide_false, Bool.false_and]

/-- PROCESS of a whole frame: an accepted frame is decoded, any other dropped (R130, R133, R134). -/
theorem execProcess_whole {s : State} (h : s.Sized) (hph : s.ph = .idle) {f : List Byte} (hne : f ≠ []) :
    execProcess f true s =
      if s.accepts f then decodePhase (s.received f .decode) else .next (s.received f .idle) := by
  rw [execProcess_idle hph hne, deliver, if_pos rfl, receive_start_eq_received h f, ← framingPass_received h f]
  rfl

theorem execProcess_rejected {s : State} (h : s.Sized) (hph : s.ph = .idle) {f : List Byte} (hne : f ≠ [])
    (hacc : s.accepts f = false) : execProcess f true s = .next (s.received f .idle) := by
  rw [execProcess_whole h hph hne, hacc, if_neg Bool.false_ne_true]

theorem execProcess_accepted {s : State} (h : s.Sized) (hph : s.ph = .idle) {f : List Byte}
    (hacc : s.accepts f = true) : execProcess f true s = decodePhase (s.received f .decode) := by
  rw [execProcess_whole h hph (State.ne_nil_of_accepts hacc), if_pos hacc]

/-- Settles O17: each of the three causes fails a test. -/
theorem rejectedFrameIsDroppedSilently : Obligations.RejectedFrameIsDroppedSilently := by
  intro s f hsized hph hne hcause
  have hacc : s.accepts f = false := by
    refine Bool.eq_false_iff.mpr fun hacc => ?_
    obtain ⟨hlen, hstation, hcrc⟩ := State.accepts_iff.mp hacc
    rcases hcause with hshort | hother | hbroken
    · exact Nat.not_lt.mpr hlen hshort
    · exact hother hstation
    · exact hbroken hcrc
  refine (execProcess_rejected hsized hph hne hacc).trans ?_
  rw [State.received, ← hph]

/-! ## The accepted frame (R134, R142) -/

/-- DECODE runs what the decoder reads from the stored frame. -/
theorem decodePhase_eq_exec {s : State} {i : Instr} (h : decodeRequest s.frame = .ok i) : decodePhase s = exec i s := by
  unfold decodeRequest at h
  split at h
  · cases h
  · unfold decodePhase
    cases hkind : requestKind (frameFunc s.frame) <;> rw [hkind] at h <;> cases h <;> rfl

/-- Settles O18: an accepted frame is stored as far as RXBUF reaches, and at least 7 bytes of it. -/
theorem processRunsTheDecodedRequest : Obligations.ProcessRunsTheDecodedRequest := by
  intro s f hsized hph hacc
  obtain ⟨hlen, -, hcrc⟩ := State.accepts_iff.mp hacc
  have hstored : 7 ≤ (f.take s.cfg.rxcap).length := by
    rw [List.length_take]; exact Nat.le_min.mpr ⟨rxcap_ge s.cfg, hlen⟩
  have hdecode := decodeRequest_of_length hstored
  refine ⟨_, hdecode, (execProcess_accepted hsized hph hacc).trans ?_⟩
  rw [← hsized.received_frame f .decode] at hdecode ⊢
  rw [decodePhase_eq_exec hdecode, ← hcrc]
  rfl

end Sys2Proof.Machine
end

section
/-! The count guard and the binding search (41_frame_validation.md sections 3 and 4). -/

namespace Sys2Proof.Machine

/-! ## The first fit (R139 to R141) -/

theorem Binding.matches_iff {b : Binding} {func : Byte} {addr count : Word} :
    b.matches func addr count = true ↔ Fits b (decide (func = 0x03#8)) addr count := by
  simp [Binding.matches, Binding.serves, Fits, and_assoc]

/-- The registered bindings by their indices. -/
theorem State.registered_getElem? {s : State} {j : Nat} {b : Binding} :
    (s.binds.take s.nb)[j]? = some b ↔ j < s.nb ∧ s.binds[j]? = some b := by
  rw [List.getElem?_take]
  split <;> next h => simp [h]

theorem State.search_eq_none_iff {s : State} :
    s.search = none ↔ s.NoFit (decide (s.func = 0x03#8)) s.addr s.count := by
  simp only [State.search, searchFrom_none, State.NoFit, List.mem_iff_getElem?, State.registered_getElem?,
    ← Binding.matches_iff, Bool.not_eq_true]
  exact ⟨fun h j hj b hb => h b ⟨j, hj, hb⟩, fun h b ⟨j, hj, hb⟩ => h j hj b hb⟩

theorem State.firstFit_of_search {s : State} {k : Nat} (h : s.search = some k) :
    s.FirstFit (decide (s.func = 0x03#8)) s.addr s.count k := by
  obtain ⟨i, rfl, ⟨b, hb, hm⟩, hall⟩ := searchFrom_some h
  obtain ⟨hi, hb⟩ := State.registered_getElem?.mp hb
  rw [Nat.zero_add]
  refine ⟨hi, ⟨b, hb, Binding.matches_iff.mp hm⟩, fun j hj b' hb' hfit => ?_⟩
  have hno := hall j hj b' (State.registered_getElem?.mpr ⟨Nat.lt_trans hj hi, hb'⟩)
  rw [Binding.matches_iff.mpr hfit] at hno
  cases hno

theorem State.FirstFit.not_lt {s : State} {read : Bool} {addr count : Word} {j k : Nat}
    (hj : s.FirstFit read addr count j) (hk : s.FirstFit read addr count k) : ¬ j < k := by
  obtain ⟨-, ⟨b, hb, hfit⟩, -⟩ := hj
  exact fun hlt => hk.2.2 j hlt b hb hfit

/-- At most one binding is the first that fits. -/
theorem State.FirstFit.unique {s : State} {read : Bool} {addr count : Word} {j k : Nat}
    (hj : s.FirstFit read addr count j) (hk : s.FirstFit read addr count k) : j = k :=
  Nat.le_antisymm (Nat.not_lt.mp (hk.not_lt hj)) (Nat.not_lt.mp (hj.not_lt hk))

theorem State.search_eq_some_iff {s : State} {k : Nat} :
    s.search = some k ↔ s.FirstFit (decide (s.func = 0x03#8)) s.addr s.count k := by
  refine ⟨State.firstFit_of_search, fun hk => ?_⟩
  cases hs : s.search with
  | none =>
    obtain ⟨hlt, ⟨b, hb, hfit⟩, -⟩ := hk
    exact absurd hfit (State.search_eq_none_iff.mp hs k hlt b hb)
  | some j => rw [(State.firstFit_of_search hs).unique hk]

/-- Settles O24: the search answers the first fit, of which there is at most one, and nothing only where none is. -/
theorem searchFindsTheFirstFit : Obligations.SearchFindsTheFirstFit :=
  fun _ _ => ⟨fun _ => State.search_eq_some_iff, State.search_eq_none_iff⟩

/-! ## The count guard (R137) -/

theorem raiseException_sized (code : ExcCode) {s : State} (h : s.Sized) :
    raiseException code s =
      let bytes := [s.station, excFunc s.func, code.byte]
      { s with txbuf := overwrite s.txbuf (crcAppend bytes), txlen := 5, crcf := crc16 bytes, ph := .idle,
               trace := s.trace ++ [.respond (crcAppend bytes)] } := by
  refine raiseException_eq code s ?_
  have hcap := (txcap_bounds s.cfg).2
  rw [h.txbuf_length]; omega

section
variable {func : Byte} {addr count : Word} {s : State} (serve : State → State)

theorem guardAndSearch_refused (h : s.Sized) (hcount : s.cfg.maxReg.val < count.toNat) :
    guardAndSearch func addr count serve s =
      let bytes := [s.station, excFunc func, 0x02#8]
      { s with ph := .idle, func := func, addr := addr, count := count, txbuf := overwrite s.txbuf (crcAppend bytes),
               txlen := 5, crcf := crc16 bytes, trace := s.trace ++ [.respond (crcAppend bytes)] } :=
  (if_pos hcount).trans (raiseException_sized _ h.of_same)

theorem guardAndSearch_passed (hcount : count.toNat ≤ s.cfg.maxReg.val) :
    guardAndSearch func addr count serve s =
      matchPhase serve { s with ph := .matching, func := func, addr := addr, count := count } :=
  if_neg (Nat.not_lt.mpr hcount)

/-- A request that no binding fits (R141). SEL has a free value after it (R37). -/
theorem guardAndSearch_unmatched (h : s.Sized) (hcount : count.toNat ≤ s.cfg.maxReg.val)
    (hno : s.NoFit (decide (func = 0x03#8)) addr count) :
    guardAndSearch func addr count serve s =
      let bytes := [s.station, excFunc func, 0x02#8]
      { s with ph := .idle, func := func, addr := addr, count := count, txbuf := overwrite s.txbuf (crcAppend bytes),
               txlen := 5, crcf := crc16 bytes, trace := s.trace ++ [.respond (crcAppend bytes)],
               sel := freeBelow s.draws (s.cfg.maxBind - 1), draws := s.draws + 1 } := by
  have hsearch : ({ s with ph := .matching, func := func, addr := addr, count := count } : State).search = none :=
    State.search_eq_none_iff.mpr hno
  rw [guardAndSearch_passed serve hcount, matchPhase, hsearch]
  exact raiseException_sized _ h.of_same

end

/-- Settles O26: both request kinds are the guard and the search, before their own loops. -/
theorem countGuardRaisesIllegalDataAddress : Obligations.CountGuardRaisesIllegalDataAddress := by
  intro s st a c rest hsized
  refine ⟨fun hcount => ⟨?_, ?_⟩, fun hcount => ⟨?_, ?_⟩⟩
  · exact congrArg Host.Outcome.next (guardAndSearch_refused readPhase hsized hcount)
  · exact congrArg Host.Outcome.next (guardAndSearch_refused (writePhase rest) hsized hcount)
  · exact congrArg Host.Outcome.next (guardAndSearch_passed readPhase hcount)
  · exact congrArg Host.Outcome.next (guardAndSearch_passed (writePhase rest) hcount)

/-- Settles O27: the search of either direction finds nothing. -/
theorem unmatchedRequestRaisesIllegalDataAddress : Obligations.UnmatchedRequestRaisesIllegalDataAddress := by
  intro s st a c rest hsized hcount
  refine ⟨fun hno => ?_, fun hno => ?_⟩
  · exact ⟨_, congrArg Host.Outcome.next (guardAndSearch_unmatched (func := 0x03#8) readPhase hsized hcount hno), rfl⟩
  · exact ⟨_, congrArg Host.Outcome.next (guardAndSearch_unmatched (func := 0x10#8) (writePhase rest) hsized hcount hno), rfl⟩

end Sys2Proof.Machine
end

section
/-! Termination: with the answers of MAXREG accessor calls at hand a transaction ends (41_frame_validation.md section 5). -/

namespace Sys2Proof.Machine

/-- The answers of MAXREG accessor calls stand at the head of the moves. -/
def State.Answered (s : State) : Prop :=
  ∃ as more, s.inputs = answerInputs as ++ more ∧ s.cfg.maxReg.val ≤ as.length

/-- From `s` to `t` a transaction has ended, with at most MAXREG accessor calls and then one response (R143). -/
def State.RespondsTo (s t : State) : Prop :=
  t.ph = .idle ∧ ∃ calls bytes, (∀ e ∈ calls, e.isCall = true) ∧ calls.length ≤ s.cfg.maxReg.val ∧
    t.trace = s.trace ++ calls ++ [.respond bytes]

/-- A start that differs neither in the parameters nor in the trace. -/
theorem State.RespondsTo.of_start {s s' t : State} (h : s'.RespondsTo t) (hcfg : s'.cfg = s.cfg := by rfl)
    (htrace : s'.trace = s.trace := by rfl) : s.RespondsTo t := by
  rwa [State.RespondsTo, ← hcfg, ← htrace]

/-- A response sent after at most MAXREG calls. -/
theorem State.RespondsTo.emit_after_calls {s u : State} {calls : List Event} (hcalls : ∀ e ∈ calls, e.isCall = true)
    (hlen : calls.length ≤ s.cfg.maxReg.val) (htrace : u.trace = s.trace ++ calls) (bs : List Byte) :
    s.RespondsTo (emit bs u) := by
  obtain ⟨txbuf, crcf, frame, -, heq⟩ := emit_frame bs u
  rw [heq]
  exact ⟨rfl, calls, frame, hcalls, hlen, by rw [← htrace]⟩

theorem raiseException_responds (code : ExcCode) {s u : State} (htrace : u.trace = s.trace := by rfl) :
    s.RespondsTo (raiseException code u) :=
  .emit_after_calls (calls := []) (by simp) (Nat.zero_le _) (htrace.trans (List.append_nil _).symm) _

/-! ## The loops (R151, R163) -/

theorem readCalls_length (k : Nat) (a : Word) (as : List (Bool × Word)) : (readCalls k a as).length = as.length := by
  induction as generalizing a with
  | nil => rfl
  | cons p as ih => exact congrArg (· + 1) (ih (a + 1#16))

theorem writeCalls_length_le (k : Nat) (a : Word) (vs : List Word) (as : List (Bool × Word)) :
    (writeCalls k a vs as).length ≤ as.length := by
  fun_induction writeCalls k a vs as with
  | case1 a v vs ok w as ih => exact Nat.succ_le_succ ih
  | case2 => exact Nat.zero_le _

/-- Answers taken until none is left are all the answers there were. -/
theorem length_le_of_noAnswer {as bs : List (Bool × Word)} {more rest : List Input}
    (h : answerInputs as ++ more = answerInputs bs ++ rest) (hno : NoAnswer rest) : as.length ≤ bs.length := by
  induction as generalizing bs with
  | nil => exact Nat.zero_le _
  | cons p as ih =>
    cases bs with
    | nil => exact absurd h.symm (hno p.1 p.2 _)
    | cons q bs => exact Nat.succ_le_succ (ih (List.cons.inj h).2)

/-- A loop over at most MAXREG registers does not run out of answers. -/
theorem State.Answered.not_exhausted {s : State} (h : s.Answered) {as : List (Bool × Word)} {rest : List Input}
    (hin : s.inputs = answerInputs as ++ rest) (hno : NoAnswer rest) : s.cfg.maxReg.val ≤ as.length := by
  obtain ⟨bs, more, hbs, hlen⟩ := h
  exact Nat.le_trans hlen (length_le_of_noAnswer (hbs.symm.trans hin) hno)

/-- RD from its start ends: had it stopped for want of an answer, fewer than MAXREG would have been there. -/
theorem State.Answered.readPhase_responds {s : State} (h : s.Answered) (hsized : s.Sized)
    (hguard : s.count.toNat ≤ s.cfg.maxReg.val) : s.RespondsTo (readPhase s) := by
  have hfits : 0 + s.count.toNat ≤ s.valbuf.length := by rw [hsized.valbuf_length, Nat.zero_add]; exact hguard
  obtain ⟨as, rest, hin, ⟨hends, heq⟩ | ⟨-, hlt, hno, -⟩⟩ :=
    readLoop_cases s.count.toNat { s with ph := .rd, idx := 0 } hfits
  · rw [readPhase, heq]
    refine .emit_after_calls (readCalls_isCall _ _ _) ?_ rfl _
    rw [readCalls_length]
    exact Nat.le_trans (endsLoop_length_le hends) hguard
  · exact absurd (h.not_exhausted hin hno) (by omega)

/-- The same of WR. -/
theorem State.Answered.writePhase_responds {s : State} (h : s.Answered) (hsized : s.Sized)
    (hguard : s.count.toNat ≤ s.cfg.maxReg.val) (rest : List Byte) : s.RespondsTo (writePhase rest s) := by
  have hfits : 0 + s.count.toNat ≤ (overwrite s.valbuf (payloadValues rest s)).length := by
    rw [overwrite_length, hsized.valbuf_length, Nat.zero_add]; exact hguard
  obtain ⟨as, moves, hin, ⟨hends, heq⟩ | ⟨-, hlt, hno, -⟩⟩ := writeLoop_cases s.count.toNat
    { s with ph := .wr, idx := 0, valbuf := overwrite s.valbuf (payloadValues rest s), draws := s.draws + s.cfg.rxcap }
    hfits
  · rw [writePhase, heq]
    refine .emit_after_calls (writeCalls_isCall _ _ _ _) ?_ rfl _
    exact Nat.le_trans (writeCalls_length_le _ _ _ _) (Nat.le_trans (endsLoop_length_le hends) hguard)
  · exact absurd (h.not_exhausted hin hno) (by omega)

/-! ## Whole frames (R143) -/

/-- DECODE and MATCH: an exception is a response, and so is the service of a found binding. -/
theorem State.Answered.guardAndSearch_responds {s : State} (h : s.Answered) (hsized : s.Sized) (func : Byte)
    (addr count : Word) (serve : State → State)
    (hserve : ∀ t : State, t.Answered → t.Sized → t.count.toNat ≤ t.cfg.maxReg.val → t.RespondsTo (serve t)) :
    s.RespondsTo (guardAndSearch func addr count serve s) := by
  obtain ⟨-, heq⟩ | ⟨-, -, heq⟩ | ⟨k, hguard, -, heq⟩ := guardAndSearch_cases func addr count serve s
  all_goals rw [heq]
  · exact raiseException_responds _
  · exact raiseException_responds _
  · exact .of_start (hserve _ h hsized.of_same hguard)

theorem State.Answered.decodePhase_responds {s : State} (h : s.Answered) (hsized : s.Sized) :
    ∃ t, decodePhase s = .next t ∧ s.RespondsTo t := by
  unfold decodePhase
  split
  · exact ⟨_, rfl, h.guardAndSearch_responds hsized _ _ _ _ fun _ ht hs hguard => ht.readPhase_responds hs hguard⟩
  · exact ⟨_, rfl, h.guardAndSearch_responds hsized _ _ _ _ fun _ ht hs hguard => ht.writePhase_responds hs hguard _⟩
  · exact ⟨_, rfl, raiseException_responds _⟩

/-- Settles O42: a frame that is not accepted is dropped, and the request of an accepted one ends. -/
theorem answeredTransactionEnds : Obligations.AnsweredTransactionEnds := by
  intro s f as more hsized hph hne hin hlen
  cases hacc : s.accepts f with
  | false => exact ⟨_, execProcess_rejected hsized hph hne hacc, rfl, fun _ => rfl, nofun⟩
  | true =>
    have hanswered : (s.received f .decode).Answered := ⟨as, more, hin, hlen⟩
    obtain ⟨t, heq, hidle, hresponse⟩ := hanswered.decodePhase_responds
      (hsized.of_same (t := s.received f .decode) rfl rfl rfl rfl (overwrite_length _ _))
    exact ⟨t, (execProcess_accepted hsized hph hacc).trans heq, hidle, nofun, fun _ => hresponse⟩

end Sys2Proof.Machine
end

section
/-! The response formats: built, terminated and handed over once (42_read_holding.md R153, 43_write_multiple.md R164,
44_exception_response.md R172 to R175). -/

namespace Sys2Proof.Machine

/-- A response that fits TXCAP with its CRC: the whole next state (R174, R175). -/
theorem State.Sized.emit_eq {s : State} (h : s.Sized) {bs : List Byte} (hfits : bs.length + 2 ≤ s.cfg.txcap) :
    emit bs s =
      { s with txbuf := overwrite s.txbuf (crcAppend bs), txlen := bs.length + 2, crcf := crc16 bs, ph := .idle,
               trace := s.trace ++ [.respond (crcAppend bs)] } :=
  Machine.emit_eq bs s (h.txbuf_length ▸ hfits)

/-- A read response of at most MAXREG values (R9, R153). -/
theorem State.Sized.emit_readResponse {s : State} (h : s.Sized) (st : Byte) {vs : List Word}
    (hlen : vs.length ≤ s.cfg.maxReg.val) :
    emit (readResponseBytes st vs) s =
      { s with txbuf := overwrite s.txbuf (crcAppend (readResponseBytes st vs)), txlen := 2 * vs.length + 5,
               crcf := crc16 (readResponseBytes st vs), ph := .idle,
               trace := s.trace ++ [.respond (crcAppend (readResponseBytes st vs))] } := by
  have hcap := (txcap_bounds s.cfg).1
  have hbytes := readResponseBytes_length st vs
  have htxlen : (readResponseBytes st vs).length + 2 = 2 * vs.length + 5 := by omega
  rw [h.emit_eq (by omega), htxlen]

theorem State.Sized.emit_writeAck {s : State} (h : s.Sized) (st : Byte) (addr count : Word) :
    emit (writeAckBytes st addr count) s =
      { s with txbuf := overwrite s.txbuf (crcAppend (writeAckBytes st addr count)), txlen := 8,
               crcf := crc16 (writeAckBytes st addr count), ph := .idle,
               trace := s.trace ++ [.respond (crcAppend (writeAckBytes st addr count))] } :=
  h.emit_eq (txcap_bounds s.cfg).2

theorem State.Sized.emit_exception {s : State} (h : s.Sized) (st func : Byte) (code : ExcCode) :
    emit (exceptionBytes st func code) s =
      { s with txbuf := overwrite s.txbuf (crcAppend (exceptionBytes st func code)), txlen := 5,
               crcf := crc16 (exceptionBytes st func code), ph := .idle,
               trace := s.trace ++ [.respond (crcAppend (exceptionBytes st func code))] } :=
  h.emit_eq (Nat.le_trans (by rw [exceptionBytes_length]; decide) (txcap_bounds s.cfg).2)

/-- Settles O32: each format fits TXBUF with its CRC, a read response as long as it has at most MAXREG values. -/
theorem responsesAreBuiltTerminatedAndSent : Obligations.ResponsesAreBuiltTerminatedAndSent := by
  intro s hsized
  refine ⟨fun st vs hlen => ?read, fun st vs hlen => ?refused, fun st a c => ?write, fun st fn code => ?exception⟩
  case read => exact (if_pos hlen).trans (congrArg Host.Outcome.next (hsized.emit_readResponse st hlen))
  case refused => exact if_neg (Nat.not_le.mpr hlen)
  case write => exact congrArg Host.Outcome.next (hsized.emit_writeAck st a c)
  case exception => exact congrArg Host.Outcome.next (hsized.emit_exception st fn code)

end Sys2Proof.Machine
end

section
/-! A read request that is served, call by call, to its response (42_read_holding.md, R150 to R153). -/

namespace Sys2Proof.Machine

/-- A request that passes the guard is served by the first binding that fits it (R137, R139). -/
theorem guardAndSearch_firstFit {func : Byte} {addr count : Word} {s : State} {k : Nat} (serve : State → State)
    (hcount : count.toNat ≤ s.cfg.maxReg.val) (hfit : s.FirstFit (decide (func = 0x03#8)) addr count k) :
    guardAndSearch func addr count serve s =
      serve { s with ph := .matching, func := func, addr := addr, count := count, sel := k } := by
  have hsearch : ({ s with ph := .matching, func := func, addr := addr, count := count } : State).search = some k :=
    State.search_eq_some_iff.mpr hfit
  rw [guardAndSearch_passed serve hcount, matchPhase, hsearch]

/-! ## The values a read response carries (R151 to R153) -/

/-- At most one of the answers that end a loop is a failure. -/
theorem endsLoop_length_le_successes {n : Nat} {as : List (Bool × Word)} (h : endsLoop n as = true) :
    as.length ≤ successes as + 1 := by
  fun_induction endsLoop n as with
  | case1 => exact Nat.zero_le 1
  | case2 n v as ih => exact Nat.succ_le_succ (ih h)
  | case3 n v => exact Nat.le_refl 1
  | case4 => cases h

/-- Up to the entry of the last call the values sent are those of VALBUF. -/
theorem sentValues_getElem? {s : State} {i : Nat} (hcount : i < s.count.toNat) (hidx : i ≤ s.idx)
    (hval : i < s.valbuf.length) : (sentValues s)[i]? = s.valbuf[i]? := by
  simp [sentValues, hcount, hidx, hval]

/-- The calls leave their answers in VALBUF, from IDX on. -/
theorem afterReads_valbuf_getElem? {s : State} {as : List (Bool × Word)} {j : Nat} {p : Bool × Word}
    (hp : as[j]? = some p) (hval : s.idx + as.length ≤ s.valbuf.length) (rest : List Input) :
    (afterReads as rest s).valbuf[s.idx + j]? = some p.2 := by
  obtain ⟨hj, -⟩ := List.getElem?_eq_some_iff.mp hp
  have htake : (s.valbuf.take s.idx).length = s.idx := List.length_take_of_le (by omega)
  simp only [afterReads]
  rw [List.getElem?_append_right (by omega), htake, Nat.add_sub_cancel_left, overwrite_getElem?,
    if_pos ⟨by rwa [List.length_map], by rw [List.length_drop]; omega⟩, List.getElem?_map, hp]
  rfl

/-- The values sent after a loop over the registers from IDX on are the answers, the failing call's too. -/
theorem sentValues_afterReads_getElem? {s : State} {n : Nat} {as : List (Bool × Word)} {j : Nat} {p : Bool × Word}
    (hn : s.idx + n = s.count.toNat) (hval : s.count.toNat ≤ s.valbuf.length) (hends : endsLoop n as = true)
    (hp : as[j]? = some p) (rest : List Input) :
    (sentValues (afterReads as rest s))[s.idx + j]? = some p.2 := by
  obtain ⟨hj, -⟩ := List.getElem?_eq_some_iff.mp hp
  have hlen := endsLoop_length_le hends
  have hsucc := endsLoop_length_le_successes hends
  have hentry := afterReads_valbuf_getElem? (s := s) hp (by omega) rest
  have hidx : s.idx + j ≤ (afterReads as rest s).idx := by
    show s.idx + j ≤ s.idx + successes as
    omega
  have hcount : s.idx + j < s.count.toNat := by omega
  rw [← hentry]
  exact sentValues_getElem? hcount hidx (List.getElem?_eq_some_iff.mp hentry).1

/-! ## RD from its start to the response -/

/-- RRSP and SEND of a read response: the whole next state (R153, R174, R175). -/
theorem State.Sized.readResponse_eq {s : State} (h : s.Sized) (hguard : s.count.toNat ≤ s.cfg.maxReg.val) :
    readResponse s =
      let bytes := readResponseBytes s.station (sentValues s)
      { s with ph := .idle, txbuf := overwrite s.txbuf (crcAppend bytes), txlen := 2 * s.count.toNat + 5,
               crcf := crc16 bytes, trace := s.trace ++ [.respond (crcAppend bytes)],
               draws := s.draws + s.count.toNat } := by
  have hlen := sentValues_length s
  have hsized : ({ s with ph := .rrsp, draws := s.draws + s.count.toNat } : State).Sized := h.of_same
  rw [readResponse, hsized.emit_readResponse s.station (hlen ▸ hguard), hlen]

/-- The calls of the read loop keep the sizes. -/
theorem State.Sized.sized_afterReads {s : State} (h : s.Sized) (hidx : s.idx ≤ s.valbuf.length)
    (as : List (Bool × Word)) (rest : List Input) : (afterReads as rest s).Sized :=
  h.of_same rfl rfl rfl <| by
    simp only [afterReads, List.length_append, List.length_take, overwrite_length, List.length_drop]; omega

/-- The read loop over the registers from IDX on, with the answers that end it at hand: its calls, then the response. -/
theorem State.Sized.readLoop_ends_eq {s : State} (h : s.Sized) {n : Nat} (hn : s.idx + n = s.count.toNat)
    (hguard : s.count.toNat ≤ s.cfg.maxReg.val) {as : List (Bool × Word)} {more : List Input}
    (hin : s.inputs = answerInputs as ++ more) (hends : endsLoop n as = true) :
    readLoop n s =
      let bytes := readResponseBytes s.station (sentValues (afterReads as more s))
      { afterReads as more s with
        ph := .idle, txbuf := overwrite s.txbuf (crcAppend bytes), txlen := 2 * s.count.toNat + 5, crcf := crc16 bytes,
        trace := s.trace ++ readCalls s.sel s.accAddr as ++ [.respond (crcAppend bytes)],
        draws := s.draws + s.count.toNat } := by
  have hval := h.valbuf_length
  rw [readLoop_ends n as more s (by omega) hin hends]
  exact (h.sized_afterReads (by omega) as more).readResponse_eq hguard

/-! ## The whole request -/

/-- Where the read loop of a request starts that binding `k` serves (R151). -/
def State.readStart (s : State) (addr count : Word) (k : Nat) : State :=
  { s with ph := .rd, func := 0x03#8, addr := addr, count := count, sel := k, idx := 0 }

/-- RHR of a request that passes the guard is the read loop on the first binding that fits. -/
theorem exec_rhr_firstFit {s : State} (st : Byte) {addr count : Word} (rest : List Byte) {k : Nat}
    (hguard : count.toNat ≤ s.cfg.maxReg.val) (hfit : s.FirstFit true addr count k) :
    exec (.rhr st addr count rest) s = .next (readLoop count.toNat (s.readStart addr count k)) :=
  congrArg Host.Outcome.next (guardAndSearch_firstFit (func := 0x03#8) readPhase hguard hfit)

/-- Settles O28: the first fit serves the request, its loop ends on the answers, and the response carries them. -/
theorem readRequestIsServed : Obligations.ReadRequestIsServed := by
  intro s st a c rest k as more hsized hguard hfit hin hends
  have hn : (s.readStart a c k).idx + c.toNat = (s.readStart a c k).count.toNat := Nat.zero_add c.toNat
  have hval : c.toNat ≤ (s.readStart a c k).valbuf.length := hsized.valbuf_length.symm ▸ hguard
  have hstart : (s.readStart a c k).Sized := hsized.of_same
  have hexec := (exec_rhr_firstFit st rest hguard hfit).trans
    (congrArg Host.Outcome.next (hstart.readLoop_ends_eq hn hguard hin hends))
  refine ⟨_, sentValues (afterReads as more (s.readStart a c k)), hexec, sentValues_length _, fun i p hp => ?values,
    ?state⟩
  case values =>
    rw [← Nat.zero_add i]
    exact sentValues_afterReads_getElem? hn hval hends hp more
  case state => simp [afterReads, State.readStart, State.accAddr, readResponseBytes, sentValues_length]

end Sys2Proof.Machine
end

section
/-! A write request that is served, call by call, to its acknowledgement (43_write_multiple.md, R160 to R164). -/

namespace Sys2Proof.Machine

/-! ## The values a write request carries (R161, R162) -/

/-- Inside the frame a byte is read as it stands; `rest` begins at byte 6. -/
theorem payloadByte_of_getElem? {rest : List Byte} {i : Nat} {b : Byte} (s : State) (h : rest[i]? = some b) :
    payloadByte rest s (6 + i) = b := by
  rw [payloadByte, Nat.add_sub_cancel_left, h]

theorem payloadValues_length (rest : List Byte) (s : State) : (payloadValues rest s).length = s.count.toNat := by
  simp [payloadValues]

/-- Value `i` is made of the bytes 7+2i and 8+2i of the frame, each at or beyond its end a free one. -/
theorem payloadValues_getElem? (rest : List Byte) {s : State} {i : Nat} (hi : i < s.count.toNat) :
    (payloadValues rest s)[i]? =
      some (be16 (payloadByte rest s (6 + (1 + 2 * i))) (payloadByte rest s (6 + (2 + 2 * i)))) := by
  rw [← Nat.add_assoc, ← Nat.add_assoc]
  simp [payloadValues, hi]

/-! ## WR from its start to the acknowledgement -/

/-- Only as many values are written as there are answers. -/
theorem writeCalls_append (k : Nat) (a : Word) {vs : List Word} {as : List (Bool × Word)} (h : as.length ≤ vs.length)
    (ws : List Word) : writeCalls k a (vs ++ ws) as = writeCalls k a vs as := by
  induction as generalizing a vs with
  | nil => cases vs <;> cases ws <;> rfl
  | cons p as ih =>
    cases vs with
    | nil => cases h
    | cons v vs => exact congrArg (.accWrite k a v p.1 :: ·) (ih (a + 1#16) (Nat.le_of_succ_le_succ h))

/-- WR over values decoded into VALBUF writes those values. -/
theorem writeCalls_overwrite (k : Nat) (a : Word) {buf vs : List Word} {as : List (Bool × Word)}
    (hfits : vs.length ≤ buf.length) (h : as.length ≤ vs.length) :
    writeCalls k a (overwrite buf vs) as = writeCalls k a vs as := by
  rw [overwrite_eq_append buf vs hfits, writeCalls_append k a h]

/-- WACK and SEND of an acknowledgement: the whole next state (R164, R174, R175). -/
theorem State.Sized.writeAck_eq {s : State} (h : s.Sized) :
    writeAck s =
      let bytes := writeAckBytes s.station s.addr s.count
      { s with ph := .idle, txbuf := overwrite s.txbuf (crcAppend bytes), txlen := 8, crcf := crc16 bytes,
               trace := s.trace ++ [.respond (crcAppend bytes)] } :=
  State.Sized.emit_writeAck (s := { s with ph := .wack }) h.of_same s.station s.addr s.count

/-- The write loop over the registers from IDX on, with the answers that end it at hand: its calls, then the
acknowledgement. -/
theorem State.Sized.writeLoop_ends_eq {s : State} (h : s.Sized) {n : Nat} (hn : s.idx + n = s.count.toNat)
    (hguard : s.count.toNat ≤ s.cfg.maxReg.val) {as : List (Bool × Word)} {more : List Input}
    (hin : s.inputs = answerInputs as ++ more) (hends : endsLoop n as = true) :
    writeLoop n s =
      let bytes := writeAckBytes s.station s.addr s.count
      { s with ph := .idle, idx := s.idx + successes as, inputs := more, txbuf := overwrite s.txbuf (crcAppend bytes),
               txlen := 8, crcf := crc16 bytes,
               trace := s.trace ++ writeCalls s.sel s.accAddr (s.valbuf.drop s.idx) as ++
                 [.respond (crcAppend bytes)] } := by
  have hval := h.valbuf_length
  rw [writeLoop_ends n as more s (by omega) hin hends]
  exact State.Sized.writeAck_eq (s := afterWrites as more s) h.of_same

/-! ## The whole request -/

/-- The values of a write request of `count` registers, as WDEC decodes them in `s` (R161). -/
def State.decodedValues (s : State) (count : Word) (rest : List Byte) : List Word :=
  payloadValues rest { s with count := count }

/-- Where the write loop of a request starts that binding `k` serves: every value is in VALBUF (R161, R163). -/
def State.writeStart (s : State) (addr count : Word) (rest : List Byte) (k : Nat) : State :=
  { s with ph := .wr, func := 0x10#8, addr := addr, count := count, sel := k, idx := 0,
           valbuf := overwrite s.valbuf (s.decodedValues count rest), draws := s.draws + s.cfg.rxcap }

/-- WMR of a request that passes the guard is the write loop on the first binding that fits. -/
theorem exec_wmr_firstFit {s : State} (st : Byte) {addr count : Word} (rest : List Byte) {k : Nat}
    (hguard : count.toNat ≤ s.cfg.maxReg.val) (hfit : s.FirstFit false addr count k) :
    exec (.wmr st addr count rest) s = .next (writeLoop count.toNat (s.writeStart addr count rest k)) :=
  congrArg Host.Outcome.next (guardAndSearch_firstFit (func := 0x10#8) (writePhase rest) hguard hfit)

/-- Settles O29: the first fit serves the request, its loop ends on the answers, and its calls carry the values of the
frame. -/
theorem writeRequestIsServed : Obligations.WriteRequestIsServed := by
  intro s st a c rest k as more hsized hguard hfit hin hends
  have hlen : (s.decodedValues c rest).length = c.toNat := payloadValues_length _ _
  have hn : (s.writeStart a c rest k).idx + c.toNat = (s.writeStart a c rest k).count.toNat := Nat.zero_add c.toNat
  have hstart : (s.writeStart a c rest k).Sized := hsized.of_same rfl rfl rfl (overwrite_length _ _)
  have hexec := (exec_wmr_firstFit st rest hguard hfit).trans
    (congrArg Host.Outcome.next (hstart.writeLoop_ends_eq hn hguard hin hends))
  have hcalls : writeCalls k a (overwrite s.valbuf (s.decodedValues c rest)) as =
      writeCalls k a (s.decodedValues c rest) as :=
    writeCalls_overwrite k a (by rwa [hlen, hsized.valbuf_length]) (hlen ▸ endsLoop_length_le hends)
  refine ⟨_, s.decodedValues c rest, hexec, hlen, fun i h l hi hhigh hlow => ?value, fun i h hi hhigh => ?high, ?state⟩
  case value =>
    rw [State.decodedValues, payloadValues_getElem? rest hi, payloadByte_of_getElem? _ hhigh,
      payloadByte_of_getElem? _ hlow]
  case high => exact ⟨_, by rw [State.decodedValues, payloadValues_getElem? rest hi, payloadByte_of_getElem? _ hhigh]⟩
  case state => simp [State.writeStart, State.accAddr, writeAckBytes, hcalls]

end Sys2Proof.Machine
end

section
/-! The illegal function code (44_exception_response.md, R170). -/

namespace Sys2Proof.Machine

/-- ILLFN answers the exception 0x01 with its own function code, which is all it takes from the frame (R135, R170). -/
theorem exec_illfn_sized {s : State} (h : s.Sized) (st func : Byte) (rest : List Byte) :
    exec (.illfn st func rest) s =
      let bytes := [s.station, excFunc func, ExcCode.illegalFunction.byte]
      .next { s with ph := .idle, func := func, txbuf := overwrite s.txbuf (crcAppend bytes), txlen := 5,
                     crcf := crc16 bytes, trace := s.trace ++ [.respond (crcAppend bytes)] } :=
  have hstart : ({ s with ph := .decode, func := func } : State).Sized := h.of_same
  congrArg Host.Outcome.next (raiseException_sized .illegalFunction hstart)

/-- Settles O25: the exception is taken in DECODE, where only PH and FUNC have been written. -/
theorem illegalFunctionIsAnswered : Obligations.IllegalFunctionIsAnswered :=
  fun _ st fn rest hsized => exec_illfn_sized hsized st fn rest

end Sys2Proof.Machine
end

section
/-! Configuration: RESET, CONFIG and REGISTER (45_configuration.md, R180 to R183). -/

namespace Sys2Proof.Machine

/-! ## RESET (R180) -/

@[simp] theorem freeBytes_length (d n : Nat) : (freeBytes d n).length = n := by simp [freeBytes]

@[simp] theorem freeWords_length (d n : Nat) : (freeWords d n).length = n := by simp [freeWords]

@[simp] theorem freeBindings_length (d n : Nat) : (freeBindings d n).length = n := by simp [freeBindings]

/-- With NB = 0 no entry of the table is registered, so its free entries need not be valid. -/
theorem execReset_sized {s t : State} (heq : execReset s = .next t) : t.Sized := by
  cases heq
  exact {
    binds_length := freeBindings_length _ _
    nb_le := Nat.zero_le _
    entries_valid := fun _ hb => absurd hb (by simp)
    valbuf_length := freeWords_length _ _
    rxbuf_length := freeBytes_length _ _
    txbuf_length := freeBytes_length _ _ }

/-- Settles O3: the fields that are not free are read off the next state, and outside RD and WR no call is outstanding. -/
theorem resetTakesEffectInAnyPhase : Obligations.ResetTakesEffectInAnyPhase := fun _ =>
  ⟨_, rfl, rfl, rfl, rfl, rfl, rfl, rfl, rfl, rfl, execReset_sized rfl⟩

/-! ## CONFIG (R181) -/

/-- Settles O4: in IDLE nothing stands in CONFIG's way. -/
theorem configWritesStationOnly : Obligations.ConfigWritesStationOnly := fun s station hph =>
  execConfig_idle s hph station

/-! ## REGISTER (R182, R183) -/

theorem registerAccepted_iff {count : Word} {r w : Bool} {s : State} :
    registerAccepted count r w s = true ↔ count ≠ 0#16 ∧ (r = true ∨ w = true) ∧ s.nb ≠ s.cfg.maxBind := by
  simp [registerAccepted, and_assoc]

section
variable {s : State} {count : Word} {r w : Bool} (hph : s.ph = .idle)
include hph

theorem exec_register_accepted (base : Word) (hacc : registerAccepted count r w s = true) :
    exec (.register base count r w) s = .next
      { s with binds := s.binds.set s.nb { base := base, cnt := count, hr := r, hw := w }, nb := s.nb + 1 } := by
  simp [exec, execRegister, State.busy, hph, hacc]

theorem exec_register_rejected (base : Word) (hrej : ¬ registerAccepted count r w s = true) :
    exec (.register base count r w) s = .next s := by
  simp [exec, execRegister, State.busy, hph, hrej]

end

/-- Settles O5: each of the three causes on its own rejects the binding; without them it is accepted. -/
theorem registerAppendsOrIsSilentNoOp : Obligations.RegisterAppendsOrIsSilentNoOp := by
  intro s base count r w hph
  split_ifs with hcount hnone hfull
  · exact exec_register_rejected hph base (mt registerAccepted_iff.mp fun ⟨hne, _, _⟩ => hne hcount)
  · have habsent : ¬ (r = true ∨ w = true) := by simpa using hnone
    exact exec_register_rejected hph base (mt registerAccepted_iff.mp fun ⟨_, hpresent, _⟩ => habsent hpresent)
  · exact exec_register_rejected hph base (mt registerAccepted_iff.mp fun ⟨_, _, hroom⟩ => hroom hfull)
  · have hpresent : r = true ∨ w = true := by simpa [or_iff_not_imp_left] using hnone
    exact exec_register_accepted hph base (registerAccepted_iff.mpr ⟨hcount, hpresent, hfull⟩)

/-- Settles O6: the table has an entry NB because it is not full, and setting that entry leaves every other. -/
theorem acceptedBindingTakesIndexNB : Obligations.AcceptedBindingTakesIndexNB := by
  intro s base count r w hsized hph hcount haccessor hroom
  have hnb : s.nb < s.binds.length := hsized.binds_length ▸ Nat.lt_of_le_of_ne hsized.nb_le hroom
  exact ⟨_, exec_register_accepted hph base (registerAccepted_iff.mpr ⟨hcount, haccessor, hroom⟩), rfl,
    List.getElem?_set_self hnb, fun _ hk => List.getElem?_set_ne hk.symm, rfl⟩

end Sys2Proof.Machine
end

section
/-! Who changes the configuration (20_memory.md section 6, R64; 45_configuration.md, R183; 60_exceptions.md section 6,
R205): CONFIG, REGISTER and RESET, and no transaction. -/

namespace Sys2Proof.Machine

/-- The parameters and the configuration: STATION, NB and the binding table (R7, R8, R21 to R23). -/
def State.configuration (s : State) : Config × Byte × Nat × List Binding := (s.cfg, s.station, s.nb, s.binds)

theorem State.configuration_eq_iff {s t : State} :
    t.configuration = s.configuration ↔
      t.cfg = s.cfg ∧ t.station = s.station ∧ t.nb = s.nb ∧ t.binds = s.binds := by
  simp only [State.configuration, Prod.mk.injEq]

/-! ## The shared operations -/

theorem receive_configuration (bytes : List Byte) (s : State) :
    (receive bytes s).configuration = s.configuration := by
  induction bytes generalizing s with
  | nil => rfl
  | cons x bytes ih => exact ih (receiveByte s x)

theorem readLoop_configuration (n : Nat) (s : State) : (readLoop n s).configuration = s.configuration := by
  induction n generalizing s with
  | zero => rfl
  | succ n ih =>
    unfold readLoop
    split
    · next ok v rest _ =>
      cases ok with
      | false => rfl
      | true => exact ih { completeRead true v { s with inputs := rest } with idx := s.idx + 1 }
    · rfl

theorem writeLoop_configuration (n : Nat) (s : State) : (writeLoop n s).configuration = s.configuration := by
  induction n generalizing s with
  | zero => rfl
  | succ n ih =>
    unfold writeLoop
    split
    · next ok v rest _ =>
      cases ok with
      | false => rfl
      | true => exact ih { completeWrite true { s with inputs := rest } with idx := s.idx + 1 }
    · rfl

theorem readPhase_configuration (s : State) : (readPhase s).configuration = s.configuration :=
  readLoop_configuration _ _

theorem writePhase_configuration (rest : List Byte) (s : State) : (writePhase rest s).configuration = s.configuration :=
  writeLoop_configuration _ _

theorem resume_configuration (s : State) : (resume s).configuration = s.configuration := by
  unfold resume
  split
  · exact writeLoop_configuration _ s
  · exact readLoop_configuration _ s

section
variable {serve : State → State} (hserve : ∀ s : State, (serve s).configuration = s.configuration)
include hserve

/-- The search and its exception change no configuration, so a request changes it only if its service does. -/
theorem matchPhase_configuration (s : State) : (matchPhase serve s).configuration = s.configuration := by
  unfold matchPhase
  split
  · next k _ => exact hserve { s with sel := k }
  · rfl

theorem guardAndSearch_configuration (func : Byte) (addr count : Word) (s : State) :
    (guardAndSearch func addr count serve s).configuration = s.configuration := by
  unfold guardAndSearch
  dsimp only
  split
  · rfl
  · exact matchPhase_configuration hserve { s with ph := .matching, func := func, addr := addr, count := count }

end

/-! ## Transactions -/

section
variable {s t : State}

theorem execRhr_configuration {addr count : Word} (h : execRhr addr count s = .next t) :
    t.configuration = s.configuration := by
  cases h
  exact guardAndSearch_configuration readPhase_configuration _ _ _ s

theorem execWmr_configuration {addr count : Word} {rest : List Byte} (h : execWmr addr count rest s = .next t) :
    t.configuration = s.configuration := by
  cases h
  exact guardAndSearch_configuration (writePhase_configuration rest) _ _ _ s

theorem execIllfn_configuration {func : Byte} (h : execIllfn func s = .next t) :
    t.configuration = s.configuration := by
  cases h
  rfl

theorem execRspR_configuration {station : Byte} {values : List Word} (h : execRspR station values s = .next t) :
    t.configuration = s.configuration := by
  unfold execRspR at h
  split at h <;> cases h
  rfl

theorem decodePhase_configuration (h : decodePhase s = .next t) : t.configuration = s.configuration := by
  unfold decodePhase at h
  split at h
  · exact execRhr_configuration h
  · exact execWmr_configuration h
  · exact execIllfn_configuration h

theorem checkPhase_configuration (h : checkPhase s = .next t) : t.configuration = s.configuration := by
  unfold checkPhase at h
  split at h
  · exact (decodePhase_configuration h :)
  · cases h
    rfl

theorem deliver_configuration {bytes : List Byte} {last : Bool} (h : deliver bytes last s = .next t) :
    t.configuration = s.configuration := by
  rw [← receive_configuration bytes s]
  unfold deliver at h
  split at h
  · exact (checkPhase_configuration h :)
  · cases h
    rfl

theorem execProcess_configuration {bytes : List Byte} {last : Bool} (h : execProcess bytes last s = .next t) :
    t.configuration = s.configuration := by
  unfold execProcess at h
  split at h
  · split at h
    · cases h; rfl
    · exact (deliver_configuration h :)
  · split at h
    · cases h; rfl
    · exact deliver_configuration h
  · cases h

theorem continuePhase_configuration {p : Phase} (h : continuePhase p s = .next t) :
    t.configuration = s.configuration := by
  cases p with
  | check => exact checkPhase_configuration h
  | decode => exact decodePhase_configuration h
  | matching =>
    unfold continuePhase at h
    dsimp only at h
    split at h <;> cases h
    · exact matchPhase_configuration readPhase_configuration s
    · exact matchPhase_configuration (writePhase_configuration _) s
  | rd => cases h; exact readLoop_configuration _ s
  | wdec => cases h; exact writePhase_configuration _ s
  | wr => cases h; exact writeLoop_configuration _ s
  | idle | recv | rrsp | wack | xrsp | send => cases h; rfl

/-! ## Instructions -/

/-- What `i` may change of the configuration from `s` to `t`: RESET and CONFIG the station, RESET and REGISTER the table,
no instruction the parameters. -/
structure State.ConfiguredBy (i : Instr) (s t : State) : Prop where
  cfg : t.cfg = s.cfg
  station : t.station ≠ s.station → i = .reset ∨ ∃ st, i = .config st
  table : t.nb ≠ s.nb ∨ t.binds ≠ s.binds → i = .reset ∨ ∃ b c r w, i = .register b c r w

theorem State.ConfiguredBy.of_configuration_eq {i : Instr} (h : t.configuration = s.configuration) :
    ConfiguredBy i s t := by
  obtain ⟨hcfg, hstation, hnb, hbinds⟩ := State.configuration_eq_iff.mp h
  exact ⟨hcfg, fun hne => absurd hstation hne, fun hne => (hne.elim (· hnb) (· hbinds)).elim⟩

theorem execReset_configuredBy (h : execReset s = .next t) : State.ConfiguredBy .reset s t := by
  cases h
  exact ⟨rfl, fun _ => .inl rfl, fun _ => .inl rfl⟩

theorem execConfig_configuredBy {station : Byte} (h : execConfig station s = .next t) :
    State.ConfiguredBy (.config station) s t := by
  unfold execConfig at h
  split at h <;> cases h
  exact ⟨rfl, fun _ => .inr ⟨station, rfl⟩, by simp⟩

theorem execRegister_configuredBy {base count : Word} {r w : Bool} (h : execRegister base count r w s = .next t) :
    State.ConfiguredBy (.register base count r w) s t := by
  unfold execRegister at h
  split at h
  · cases h
  · split at h <;> cases h
    · exact ⟨rfl, fun hne => absurd rfl hne, fun _ => .inr ⟨base, count, r, w, rfl⟩⟩
    · exact .of_configuration_eq rfl

theorem exec_configuredBy {i : Instr} (h : exec i s = .next t) : State.ConfiguredBy i s t := by
  cases i with
  | reset => exact execReset_configuredBy h
  | config station => exact execConfig_configuredBy h
  | register base count r w => exact execRegister_configuredBy h
  | rhr station addr count rest => exact .of_configuration_eq (execRhr_configuration h)
  | wmr station addr count rest => exact .of_configuration_eq (execWmr_configuration h)
  | illfn station func rest => exact .of_configuration_eq (execIllfn_configuration h)
  | rspR station values => exact .of_configuration_eq (execRspR_configuration h)
  | process bytes last => exact .of_configuration_eq (execProcess_configuration h)
  | rspW | rspE | crcInit | crcByte | crcRead => cases h; exact .of_configuration_eq rfl

/-! ## Steps -/

/-- From `s` to `t` the configuration is as before, or an edge at the head of the moves has brought an operation that may
change it. -/
def State.ConfiguredByHost (s t : State) : Prop :=
  t.configuration = s.configuration ∨
    ∃ e rest, s.inputs = .edge e :: rest ∧ ConfiguredBy (decodePort e) s t

/-- The next move of the outside world: only an edge brings an instruction. -/
theorem runFetched_fetchInput_configuredByHost (h : runFetched (fetchInput s) s = .next t) : s.ConfiguredByHost t := by
  unfold fetchInput at h
  split at h
  · split at h <;> cases h
    exact .inl rfl
  · split at h <;> cases h
    · exact .inl (resume_configuration s)
    · exact .inl rfl
  · next e rest hin =>
    obtain ⟨hcfg, hstation, htable⟩ := exec_configuredBy h
    exact .inr ⟨e, rest, hin, hcfg, hstation, htable⟩

/-- A step takes the next move of the outside world, or goes on inside a transaction. -/
theorem step_configuredByHost (h : step s = .next t) : s.ConfiguredByHost t := by
  have hphase {p : Phase} (h : runFetched (.phase p) s = .next t) : s.ConfiguredByHost t :=
    .inl (continuePhase_configuration (p := p) h)
  unfold step at h
  cases hph : s.ph <;> simp only [fetch, hph] at h
  case idle | recv => exact runFetched_fetchInput_configuredByHost h
  case rd | wr =>
    split at h
    · exact runFetched_fetchInput_configuredByHost h
    · exact hphase h
  case decode =>
    split at h
    · next i hi => exact .inl (decodePhase_configuration ((decodePhase_eq_exec hi).trans h))
    · cases h
  case rrsp => exact .inl (execRspR_configuration h :)
  case wack | xrsp => cases h; exact .inl rfl
  case check | matching | wdec | send => exact hphase h

end

/-- Settles O37: what an instruction may change, and that a step runs one that may only from an edge. -/
theorem onlyTheHostChangesTheConfiguration : Obligations.OnlyTheHostChangesTheConfiguration := by
  refine ⟨fun i s t h => ?instruction, fun s t h => ?step⟩
  case instruction =>
    obtain ⟨hcfg, hstation, htable⟩ := exec_configuredBy h
    refine ⟨hcfg, fun hreset hconfig => ?_, fun hreset hregister => ?_⟩
    · by_contra hne
      obtain heq | ⟨st, heq⟩ := hstation hne
      · exact hreset heq
      · exact hconfig st heq
    · by_contra hne
      obtain heq | ⟨b, c, r, w, heq⟩ := htable (Decidable.not_and_iff_or_not.mp hne)
      · exact hreset heq
      · exact hregister b c r w heq
  case step =>
    obtain heq | ⟨e, rest, hin, hcfg, hstation, htable⟩ := step_configuredByHost h
    · obtain ⟨hcfg, hstation, hnb, hbinds⟩ := State.configuration_eq_iff.mp heq
      exact ⟨hcfg, fun hne => absurd hstation hne, fun hne => (hne.elim (· hnb) (· hbinds)).elim⟩
    · exact ⟨hcfg, fun hne => ⟨e, rest, hin, hstation hne⟩, fun hne => ⟨e, rest, hin, htable hne⟩⟩

end Sys2Proof.Machine
end

section
/-! The priority of what one PROCESS reports (60_exceptions.md section 3, R195). -/

namespace Sys2Proof

theorem getD_take_of_lt (f : List Byte) {i n : Nat} (h : i < n) : (f.take n).getD i 0 = f.getD i 0 := by
  rw [List.getD_eq_getElem?_getD, List.getElem?_take_of_lt h, ← List.getD_eq_getElem?_getD]

/-- The first 7 bytes of a frame give its request kind and operands; of a longer one only the ignored bytes, or the
values, are cut off (R87, R88). -/
theorem decodeRequest_take {f : List Byte} {n : Nat} (hn : 7 ≤ n) (hf : 7 ≤ f.length) :
    decodeRequest (f.take n) = .ok
      (if frameFunc f = 0x03#8 then .rhr (frameStation f) (frameAddr f) (frameCount f) ((f.take n).drop 6)
       else if frameFunc f = 0x10#8 then .wmr (frameStation f) (frameAddr f) (frameCount f) ((f.take n).drop 6)
       else .illfn (frameStation f) (frameFunc f) ((f.take n).drop 2)) := by
  have hbyte (i : Nat) (hi : i < 6) : (f.take n).getD i 0 = f.getD i 0 := getD_take_of_lt f (by omega)
  have hlen : 7 ≤ (f.take n).length := by rw [List.length_take]; exact Nat.le_min.mpr ⟨hn, hf⟩
  have hstation : frameStation (f.take n) = frameStation f := hbyte 0 (by decide)
  have hfunc : frameFunc (f.take n) = frameFunc f := hbyte 1 (by decide)
  have haddr : frameAddr (f.take n) = frameAddr f := congrArg₂ be16 (hbyte 2 (by decide)) (hbyte 3 (by decide))
  have hcount : frameCount (f.take n) = frameCount f := congrArg₂ be16 (hbyte 4 (by decide)) (hbyte 5 (by decide))
  rw [decodeRequest_of_length hlen, hstation, hfunc, haddr, hcount]

end Sys2Proof

namespace Sys2Proof.Machine

theorem State.Sized.received {s : State} (h : s.Sized) (f : List Byte) (p : Phase) : (s.received f p).Sized :=
  h.of_same rfl rfl rfl rfl (overwrite_length _ _)

/-- A frame is accepted if none of the causes to drop it holds (R132, R133). -/
theorem State.accepts_cons_iff {s : State} {b : Byte} {bs : List Byte} :
    s.accepts (b :: bs) = true ↔
      ¬((b :: bs).length < 7 ∨ b ≠ s.station ∨ crc16 (b :: bs) ≠ 0x0000#16) := by
  simp [State.accepts_iff]

section
variable {s : State} {f : List Byte} (h : s.Sized) (hph : s.ph = .idle) (hacc : s.accepts f = true)
include h hph hacc

/-- PROCESS of an accepted frame is the request its own first bytes give, in the state reception has left. -/
theorem exec_process_accepted :
    exec (.process f true) s = exec
      (if frameFunc f = 0x03#8 then
         .rhr (frameStation f) (frameAddr f) (frameCount f) ((f.take s.cfg.rxcap).drop 6)
       else if frameFunc f = 0x10#8 then
         .wmr (frameStation f) (frameAddr f) (frameCount f) ((f.take s.cfg.rxcap).drop 6)
       else .illfn (frameStation f) (frameFunc f) ((f.take s.cfg.rxcap).drop 2)) (s.received f .decode) := by
  have hdecode := decodeRequest_take (rxcap_ge s.cfg) (State.accepts_iff.mp hacc).1
  rw [← h.received_frame f .decode] at hdecode ⊢
  exact (execProcess_accepted h hph hacc).trans (decodePhase_eq_exec hdecode)

theorem exec_process_rhr (hfunc : frameFunc f = 0x03#8) :
    exec (.process f true) s = exec
      (.rhr (frameStation f) (frameAddr f) (frameCount f) ((f.take s.cfg.rxcap).drop 6)) (s.received f .decode) := by
  rw [exec_process_accepted h hph hacc, if_pos hfunc]

theorem exec_process_wmr (hfunc : frameFunc f = 0x10#8) :
    exec (.process f true) s = exec
      (.wmr (frameStation f) (frameAddr f) (frameCount f) ((f.take s.cfg.rxcap).drop 6)) (s.received f .decode) := by
  rw [exec_process_accepted h hph hacc, hfunc, if_neg (by decide), if_pos rfl]

theorem exec_process_illfn (h3 : frameFunc f ≠ 0x03#8) (h10 : frameFunc f ≠ 0x10#8) :
    exec (.process f true) s = exec
      (.illfn (frameStation f) (frameFunc f) ((f.take s.cfg.rxcap).drop 2)) (s.received f .decode) := by
  rw [exec_process_accepted h hph hacc, if_neg h3, if_neg h10]

/-- A read and a write request differ only in the service behind the guard and the search (R134 to R142). -/
theorem exec_process_guardAndSearch (hfunc : frameFunc f = 0x03#8 ∨ frameFunc f = 0x10#8) :
    ∃ serve, exec (.process f true) s =
      .next (guardAndSearch (frameFunc f) (frameAddr f) (frameCount f) serve (s.received f .decode)) := by
  rcases hfunc with hfunc | hfunc
  · rw [exec_process_rhr h hph hacc hfunc, hfunc]
    exact ⟨_, rfl⟩
  · rw [exec_process_wmr h hph hacc hfunc, hfunc]
    exact ⟨_, rfl⟩

/-! ## What an accepted frame reports, one lemma for each row of the priority table (R195) -/

theorem exec_process_reports_illegalFunction (h3 : frameFunc f ≠ 0x03#8) (h10 : frameFunc f ≠ 0x10#8) :
    ∃ t, exec (.process f true) s = .next t ∧
      t.trace = s.trace ++ [.respond (crcAppend [s.station, excFunc (frameFunc f), 0x01#8])] :=
  ⟨_, (exec_process_illfn h hph hacc h3 h10).trans (exec_illfn_sized (h.received f .decode) _ _ _), rfl⟩

theorem exec_process_reports_countGuard (hfunc : frameFunc f = 0x03#8 ∨ frameFunc f = 0x10#8)
    (hcount : s.cfg.maxReg.val < (frameCount f).toNat) :
    ∃ t, exec (.process f true) s = .next t ∧
      t.trace = s.trace ++ [.respond (crcAppend [s.station, excFunc (frameFunc f), 0x02#8])] := by
  obtain ⟨serve, hexec⟩ := exec_process_guardAndSearch h hph hacc hfunc
  rw [guardAndSearch_refused serve (h.received f .decode) hcount] at hexec
  exact ⟨_, hexec, rfl⟩

theorem exec_process_reports_noFit (hfunc : frameFunc f = 0x03#8 ∨ frameFunc f = 0x10#8)
    (hcount : (frameCount f).toNat ≤ s.cfg.maxReg.val)
    (hno : s.NoFit (decide (frameFunc f = 0x03#8)) (frameAddr f) (frameCount f)) :
    ∃ t, exec (.process f true) s = .next t ∧
      t.trace = s.trace ++ [.respond (crcAppend [s.station, excFunc (frameFunc f), 0x02#8])] := by
  obtain ⟨serve, hexec⟩ := exec_process_guardAndSearch h hph hacc hfunc
  rw [guardAndSearch_unmatched serve (h.received f .decode) hcount hno] at hexec
  exact ⟨_, hexec, rfl⟩

variable {k : Nat} {as : List (Bool × Word)} {more : List Input}

theorem exec_process_reports_read (hfunc : frameFunc f = 0x03#8) (hcount : (frameCount f).toNat ≤ s.cfg.maxReg.val)
    (hfit : s.FirstFit true (frameAddr f) (frameCount f) k) (hin : s.inputs = answerInputs as ++ more)
    (hends : endsLoop (frameCount f).toNat as = true) :
    ∃ (t : State) (values : List Word), exec (.process f true) s = .next t ∧ values.length = (frameCount f).toNat ∧
      t.trace = s.trace ++ readCalls k (frameAddr f) as ++
        [.respond (crcAppend (s.station :: 0x03#8 :: BitVec.ofNat 8 (2 * (frameCount f).toNat) :: valueBytes values))] := by
  obtain ⟨t, values, hexec, hlen, -, ht⟩ := readRequestIsServed (s.received f .decode) (frameStation f) (frameAddr f)
    (frameCount f) ((f.take s.cfg.rxcap).drop 6) k as more (h.received f .decode) hcount hfit hin hends
  exact ⟨t, values, (exec_process_rhr h hph hacc hfunc).trans hexec, hlen, congrArg State.trace ht⟩

theorem exec_process_reports_write (hfunc : frameFunc f = 0x10#8) (hcount : (frameCount f).toNat ≤ s.cfg.maxReg.val)
    (hfit : s.FirstFit false (frameAddr f) (frameCount f) k) (hin : s.inputs = answerInputs as ++ more)
    (hends : endsLoop (frameCount f).toNat as = true) :
    ∃ (t : State) (values : List Word), exec (.process f true) s = .next t ∧ values.length = (frameCount f).toNat ∧
      t.trace = s.trace ++ writeCalls k (frameAddr f) values as ++
        [.respond (crcAppend [s.station, 0x10#8, hi (frameAddr f), lo (frameAddr f), hi (frameCount f),
          lo (frameCount f)])] := by
  obtain ⟨t, values, hexec, hlen, -, -, ht⟩ := writeRequestIsServed (s.received f .decode) (frameStation f) (frameAddr f)
    (frameCount f) ((f.take s.cfg.rxcap).drop 6) k as more (h.received f .decode) hcount hfit hin hends
  exact ⟨t, values, (exec_process_wmr h hph hacc hfunc).trans hexec, hlen, congrArg State.trace ht⟩

end

/-- Settles O43: a frame that fails a framing test is dropped, and down the table each row has its lemma. -/
theorem processReportsByPriority : Obligations.ProcessReportsByPriority := by
  intro s b0 b1 b2 b3 b4 b5 rest f a c hsized hph
  split_ifs with hdrop hother hcount
  · have hacc : s.accepts f = false := Bool.eq_false_iff.mpr fun hacc => State.accepts_cons_iff.mp hacc hdrop
    exact ⟨_, execProcess_rejected hsized hph (List.cons_ne_nil _ _) hacc, rfl⟩
  · exact exec_process_reports_illegalFunction hsized hph (State.accepts_cons_iff.mpr hdrop) hother.1 hother.2
  · exact exec_process_reports_countGuard hsized hph (State.accepts_cons_iff.mpr hdrop)
      (Decidable.or_iff_not_not_and_not.mpr hother) hcount
  · have hacc : s.accepts f = true := State.accepts_cons_iff.mpr hdrop
    have hfunc : b1 = 0x03#8 ∨ b1 = 0x10#8 := Decidable.or_iff_not_not_and_not.mpr hother
    have hguard : c.toNat ≤ s.cfg.maxReg.val := Nat.not_lt.mp hcount
    refine ⟨fun hno => exec_process_reports_noFit hsized hph hacc hfunc hguard hno, fun k as more hfit hin hends => ?_⟩
    rcases hfunc with rfl | rfl
    · obtain ⟨t, values, hexec, hlen, htrace⟩ := exec_process_reports_read hsized hph hacc rfl hguard hfit hin hends
      exact ⟨t, values, hexec, hlen, fun _ => htrace, fun hne => absurd hne (by decide)⟩
    · obtain ⟨t, values, hexec, hlen, htrace⟩ := exec_process_reports_write hsized hph hacc rfl hguard hfit hin hends
      exact ⟨t, values, hexec, hlen, fun hne => absurd hne (by decide), fun _ => htrace⟩

end Sys2Proof.Machine
end

section
/-! Decode and encode agree: on every encodable instruction and on every frame that decodes (30_encoding.md
sections 1 to 5). -/

namespace Sys2Proof

/-! ## Received frames (R81 to R83, R87, R88) -/

/-- A request of at least 7 bytes decodes to the fields it was formed from, of the kind its function code gives. -/
theorem decodeRequest_requestBytes (st func : Byte) (addr count : Word) {rest : List Byte} (hrest : 1 ≤ rest.length) :
    decodeRequest (requestBytes st func addr count rest) = .ok
      (if func = 0x03#8 then .rhr st addr count rest
       else if func = 0x10#8 then .wmr st addr count rest
       else .illfn st func (hi addr :: lo addr :: hi count :: lo count :: rest)) := by
  have hlen : 7 ≤ (requestBytes st func addr count rest).length := by
    simp only [requestBytes, List.length_cons]; omega
  have haddr : frameAddr (requestBytes st func addr count rest) = addr := be16_hi_lo addr
  have hcount : frameCount (requestBytes st func addr count rest) = count := be16_hi_lo count
  rw [decodeRequest_of_length hlen, haddr, hcount]
  rfl

theorem ne_of_requestKind_illfn {func : Byte} (h : requestKind func = .illfn) : func ≠ 0x03#8 ∧ func ≠ 0x10#8 :=
  ⟨(by rintro rfl; cases h), (by rintro rfl; cases h)⟩

/-- A request of another kind keeps the bytes behind its function code as they are. -/
theorem decodeRequest_otherBytes (st : Byte) {func : Byte} {rest : List Byte} (hkind : requestKind func = .illfn)
    (hrest : 5 ≤ rest.length) : decodeRequest (otherBytes st func rest) = .ok (.illfn st func rest) := by
  have hlen : 7 ≤ (otherBytes st func rest).length := by simp only [otherBytes, List.length_cons]; omega
  have hfunc : frameFunc (otherBytes st func rest) = func := rfl
  obtain ⟨h3, h10⟩ := ne_of_requestKind_illfn hkind
  rw [decodeRequest_of_length hlen, hfunc, if_neg h3, if_neg h10]
  rfl

/-- The fields a received frame decodes to are all of its bytes. -/
theorem encode_of_decodeRequest {f : List Byte} {i : Instr} (h : decodeRequest f = .ok i) : encode i = .request f := by
  match f with
  | [] | [_] | [_, _] | [_, _, _] | [_, _, _, _] | [_, _, _, _, _] | [_, _, _, _, _, _] => cases h
  | b0 :: b1 :: b2 :: b3 :: b4 :: b5 :: b6 :: rest =>
    have hfunc : frameFunc (b0 :: b1 :: b2 :: b3 :: b4 :: b5 :: b6 :: rest) = b1 := rfl
    rw [decodeRequest_of_length (by simp only [List.length_cons]; omega), hfunc] at h
    cases h
    split_ifs with h3 h10
    · simp [encode, requestBytes, frameStation, frameAddr, frameCount, h3]
    · simp [encode, requestBytes, frameStation, frameAddr, frameCount, h10]
    · rfl

/-! ## The data of a response frame (R58, R84, R89) -/

/-- An even number of bytes is made of the values it is read as. -/
theorem valueBytes_bytesToWords {bs : List Byte} (h : bs.length % 2 = 0) : valueBytes (bytesToWords bs) = bs := by
  fun_induction bytesToWords bs with
  | case1 hb lb bs ih =>
    simp only [List.length_cons] at h
    rw [valueBytes, hi_be16, lo_be16, ih (by omega)]
  | case2 bs hodd =>
    match bs with
    | [] => rfl
    | [_] => cases h
    | hb :: lb :: bs => exact absurd rfl (hodd hb lb bs)

/-- The byte count of a read response is that of its values (R84). -/
theorem readResponseBytes_bytesToWords (st : Byte) {b : Byte} {bs : List Byte} (hlen : bs.length = b.toNat)
    (heven : b.toNat % 2 = 0) : readResponseBytes st (bytesToWords bs) = st :: 0x03#8 :: b :: bs := by
  have hvalues : valueBytes (bytesToWords bs) = bs := valueBytes_bytesToWords (hlen ▸ heven)
  have hcount : 2 * (bytesToWords bs).length = b.toNat := by rw [← valueBytes_length, hvalues, hlen]
  rw [readResponseBytes, hcount, hvalues, BitVec.ofNat_toNat, BitVec.setWidth_eq]

theorem byte_of_decodeExcCode {b : Byte} {code : ExcCode} (h : decodeExcCode b = .ok code) : code.byte = b := by
  rw [decodeExcCode] at h
  split_ifs at h with h1 h2 <;> cases h
  · exact h1.symm
  · exact h2.symm

/-! ## Response frames (R84 to R86, R115) -/

/-- What a terminated frame decodes to, by its bytes before the CRC. -/
theorem decodeResponse_crcAppend (st fn b : Byte) (bs : List Byte) :
    decodeResponse (crcAppend (st :: fn :: b :: bs)) =
      if fn = 0x03#8 then
        if bs.length = b.toNat ∧ b.toNat % 2 = 0 then .ok (.rspR st (bytesToWords bs))
        else .error .responseWrongLength
      else if fn = 0x10#8 then
        if bs.length = 3 then .ok (.rspW st (be16 b (bs.getD 0 0)) (be16 (bs.getD 1 0) (bs.getD 2 0)))
        else .error .responseWrongLength
      else if fn.getLsbD 7 then
        if bs.length = 0 then (decodeExcCode b).map (.rspE st fn) else .error .responseWrongLength
      else .error .responseUnknownFunction := by
  have hlen : (crcAppend (st :: fn :: b :: bs)).length = bs.length + 5 := crcAppend_length _
  have hfunc : frameFunc (crcAppend (st :: fn :: b :: bs)) = fn := rfl
  have hstation : frameStation (crcAppend (st :: fn :: b :: bs)) = st := rfl
  have hbyte : (crcAppend (st :: fn :: b :: bs)).getD 2 0 = b := rfl
  have hvalues : ((crcAppend (st :: fn :: b :: bs)).drop 3).take bs.length = bs := List.take_left
  rw [decodeResponse, hlen, if_neg (by omega), crc16_crcAppend, if_neg (by decide), hfunc, hstation, hbyte]
  simp only [Nat.add_right_cancel_iff, Nat.add_eq_right, show (8 : Nat) = 3 + 5 from rfl]
  refine if_congr Iff.rfl (ite_congr rfl (fun hread => ?read) fun _ => rfl) <|
    if_congr Iff.rfl (ite_congr rfl (fun hwrite => ?write) fun _ => rfl) <|
    if_congr Iff.rfl (ite_congr rfl (fun _ => ?exception) fun _ => rfl) rfl
  case read => rw [← hread.1, hvalues]
  case write =>
    obtain ⟨x, y, z, rfl⟩ := List.length_eq_three.mp hwrite
    rfl
  case exception => cases decodeExcCode b <;> rfl

/-- A frame of residue 0 is its bytes but the last two, terminated (R115). -/
theorem crcAppend_take_of_residue {f : List Byte} (hlen : 2 ≤ f.length) (hcrc : crc16 f = 0x0000#16) :
    crcAppend (f.take (f.length - 2)) = f := by
  have hend : (f.drop (f.length - 2)).length = 2 := by rw [List.length_drop]; omega
  obtain ⟨l, h, hlast⟩ := List.length_eq_two.mp hend
  have hsplit : f.take (f.length - 2) ++ [l, h] = f := by rw [← hlast, List.take_append_drop]
  have hform : crc16 (f.take (f.length - 2)) = be16 h l := (validationFormsAgree _ l h).mpr (hsplit.symm ▸ hcrc)
  rw [crcAppend, hform, lo_be16, hi_be16, hsplit]

/-- A response frame that decodes is terminated, behind three bytes or more (R91, R115). -/
theorem terminated_of_decodeResponse {f : List Byte} {i : Instr} (h : decodeResponse f = .ok i) :
    ∃ st fn b bs, f = crcAppend (st :: fn :: b :: bs) := by
  have hlen : ¬ f.length < 5 := fun hshort => by
    rw [decodeResponse, if_pos hshort] at h
    cases h
  have hcrc : crc16 f = 0x0000#16 := by
    by_contra hbad
    rw [decodeResponse, if_neg hlen, if_pos hbad] at h
    cases h
  have hframe := crcAppend_take_of_residue (by omega) hcrc
  match hbytes : f.take (f.length - 2) with
  | st :: fn :: b :: bs => exact ⟨st, fn, b, bs, by rw [← hbytes, hframe]⟩
  | [] | [_] | [_, _] =>
    have := congrArg List.length hbytes
    simp only [List.length_take, List.length_cons, List.length_nil] at this
    omega

/-- The fields a response frame decodes to give its bytes before the CRC, and those give the CRC. -/
theorem encode_of_decodeResponse {f : List Byte} {i : Instr} (h : decodeResponse f = .ok i) :
    encode i = .response f := by
  obtain ⟨st, fn, b, bs, rfl⟩ := terminated_of_decodeResponse h
  rw [decodeResponse_crcAppend] at h
  split_ifs at h with h3 hread h10 hwrite hbit hexception
  · cases h
    rw [encode, readResponseBytes_bytesToWords st hread.1 hread.2, h3]
  · obtain ⟨x, y, z, rfl⟩ := List.length_eq_three.mp hwrite
    cases h
    simp [encode, writeAckBytes, h10]
  · obtain rfl := List.length_eq_zero_iff.mp hexception
    cases hcode : decodeExcCode b with
    | error r => rw [hcode] at h; cases h
    | ok code =>
      rw [hcode] at h
      cases h
      rw [encode, exceptionBytes, byte_of_decodeExcCode hcode]

/-- Settles O21: nothing of a frame is lost, whichever of its formats it decodes to. -/
theorem encodeInvertsDecodeOnFrames : Obligations.EncodeInvertsDecodeOnFrames :=
  ⟨fun _ _ => encode_of_decodeRequest, fun _ _ => encode_of_decodeResponse⟩

/-- At most 127 values have a byte count of one byte (R84). -/
theorem decodeResponse_readResponse (st : Byte) {vs : List Word} (hvs : vs.length ≤ 127) :
    decodeResponse (crcAppend (readResponseBytes st vs)) = .ok (.rspR st vs) := by
  have hcount : (BitVec.ofNat 8 (2 * vs.length)).toNat = 2 * vs.length := by rw [BitVec.toNat_ofNat]; omega
  rw [readResponseBytes, decodeResponse_crcAppend, if_pos rfl, hcount,
    if_pos ⟨valueBytes_length vs, Nat.mul_mod_right 2 _⟩, bytesToWords_valueBytes]

theorem decodeResponse_writeAck (st : Byte) (addr count : Word) :
    decodeResponse (crcAppend (writeAckBytes st addr count)) = .ok (.rspW st addr count) := by
  rw [writeAckBytes, decodeResponse_crcAppend, if_neg (by decide), if_pos rfl]
  simp

/-- Settles O20: a request is read field by field, a response is terminated and so passes the CRC test before its fields
are read, and a host operation asserts the one strobe it is told by. -/
theorem decodeInvertsEncode : Obligations.DecodeInvertsEncode := by
  intro i hi
  cases i with
  | rhr st addr count rest => exact decodeRequest_requestBytes st 0x03#8 addr count (of_decide_eq_true hi)
  | wmr st addr count rest => exact decodeRequest_requestBytes st 0x10#8 addr count (of_decide_eq_true hi)
  | illfn st func rest =>
    obtain ⟨hkind, hrest⟩ := Bool.and_eq_true_iff.mp hi
    exact decodeRequest_otherBytes st (eq_of_beq hkind) (of_decide_eq_true hrest)
  | rspR st values => exact decodeResponse_readResponse st (of_decide_eq_true hi)
  | rspW st addr count => exact decodeResponse_writeAck st addr count
  | rspE st func code => exact decodeResponse_exception st hi code
  | reset | config _ | register _ _ _ _ | process _ _ | crcInit | crcByte _ | crcRead =>
    simp [decode, encode, decodePort, PortEdge.quiet]

end Sys2Proof
end

section
/-! Which instructions a state completes and which it refuses (70_reset_and_hazards.md, R225, R226, R235). -/

namespace Sys2Proof.Machine

/-! ## Misuse while BUSY (R225, R226) -/

theorem exec_config_busy {s : State} (h : s.busy = true) (station : Byte) :
    exec (.config station) s = .refused .startedWhileBusy := if_pos h

theorem exec_register_busy {s : State} (h : s.busy = true) (base count : Word) (r w : Bool) :
    exec (.register base count r w) s = .refused .startedWhileBusy := if_pos h

/-- No delivery is taken between the last byte of a frame and the end of its transaction. -/
theorem exec_process_busy {s : State} (hidle : s.ph ≠ .idle) (hrecv : s.ph ≠ .recv) (bytes : List Byte) (last : Bool) :
    exec (.process bytes last) s = .refused .startedWhileBusy := by
  rw [exec, execProcess.eq_def]
  split
  · next hph => exact absurd hph hidle
  · next hph => exact absurd hph hrecv
  · rfl

theorem State.busy_iff {s : State} : s.busy = true ↔ s.ph ≠ .idle := bne_iff_ne

/-- Settles O7: BUSY is every phase but IDLE. -/
theorem misuseWhileBusyIsRefused : Obligations.MisuseWhileBusyIsRefused :=
  ⟨fun _ station hbusy => exec_config_busy hbusy station,
    fun _ base count r w hbusy => exec_register_busy hbusy base count r w,
    fun _ bytes last hbusy hrecv => exec_process_busy (State.busy_iff.mp hbusy) hrecv bytes last⟩

/-! ## Completion (R235) -/

theorem decodePhase_next (s : State) : ∃ t, decodePhase s = .next t := by
  unfold decodePhase
  split
  · exact ⟨_, rfl⟩
  · exact ⟨_, rfl⟩
  · exact ⟨_, rfl⟩

theorem checkPhase_next (s : State) : ∃ t, checkPhase s = .next t := by
  unfold checkPhase
  split
  · exact decodePhase_next _
  · exact ⟨_, rfl⟩

theorem deliver_next (bytes : List Byte) (last : Bool) (s : State) : ∃ t, deliver bytes last s = .next t := by
  unfold deliver
  split
  · exact checkPhase_next _
  · exact ⟨_, rfl⟩

/-- Where a delivery is taken, the block comes to the end of the frame's transaction or waits for what it lacks. -/
theorem execProcess_next {s : State} (h : s.ph = .idle ∨ s.ph = .recv) (bytes : List Byte) (last : Bool) :
    ∃ t, execProcess bytes last s = .next t := by
  by_cases hne : bytes = []
  · exact ⟨s, hne ▸ execProcess_nil h last⟩
  · rcases h with hph | hph
    · rw [execProcess_idle hph hne]; exact deliver_next _ _ _
    · rw [execProcess_recv hph hne]; exact deliver_next _ _ _

theorem execConfig_next {s : State} (h : s.busy = false) (station : Byte) : ∃ t, execConfig station s = .next t :=
  ⟨_, if_neg (Bool.not_eq_true _ ▸ h)⟩

theorem execRegister_next {s : State} (h : s.busy = false) (base count : Word) (r w : Bool) :
    ∃ t, execRegister base count r w s = .next t := by
  rw [execRegister, if_neg (by simp [h])]
  split
  · exact ⟨_, rfl⟩
  · exact ⟨_, rfl⟩

/-- Settles O8: the four instructions with a condition meet or break it; every other one answers a state. -/
theorem everyAdmittedInstructionCompletes : Obligations.EveryAdmittedInstructionCompletes := by
  intro i s
  cases i with
  | process bytes last =>
    simp only [State.admits, Bool.or_eq_true, Bool.or_eq_false_iff, beq_iff_eq, beq_eq_false_iff_ne]
    exact ⟨fun h => execProcess_next h bytes last, fun h => ⟨_, exec_process_busy h.1 h.2 bytes last⟩⟩
  | config station =>
    simp only [State.admits, Bool.not_eq_true', Bool.not_eq_false']
    exact ⟨fun h => execConfig_next h station, fun h => ⟨_, exec_config_busy h station⟩⟩
  | register base count r w =>
    simp only [State.admits, Bool.not_eq_true', Bool.not_eq_false']
    exact ⟨fun h => execRegister_next h base count r w, fun h => ⟨_, exec_register_busy h base count r w⟩⟩
  | rspR st vs =>
    simp only [State.admits, decide_eq_true_eq, decide_eq_false_iff_not]
    exact ⟨fun h => ⟨_, if_pos h⟩, fun h => ⟨_, if_neg h⟩⟩
  | rhr _ _ _ _ | wmr _ _ _ _ | illfn _ _ _ | rspW _ _ _ | rspE _ _ _ | reset | crcInit | crcByte _ | crcRead =>
    exact ⟨fun _ => ⟨_, rfl⟩, nofun⟩

end Sys2Proof.Machine
end

section
/-! Transactions that wait for an accessor: they rest with the next call outstanding, and go on with its answer
(70_reset_and_hazards.md section 3, R231; 10_state.md section 11, R43). -/

namespace Sys2Proof.Machine

/-! ## The loops on too few answers (R151, R163, R231) -/

theorem successes_of_allOk {as : List (Bool × Word)} (h : allOk as) : successes as = as.length :=
  congrArg List.length (List.filter_eq_self.mpr h)

theorem readLoop_noAnswer {s : State} (h : NoAnswer s.inputs) (n : Nat) : readLoop (n + 1) s = s := by
  rw [readLoop]
  split
  · next ok v rest hin => exact absurd hin (h ok v rest)
  · rfl

theorem writeLoop_noAnswer {s : State} (h : NoAnswer s.inputs) (n : Nat) : writeLoop (n + 1) s = s := by
  rw [writeLoop]
  split
  · next ok v rest hin => exact absurd hin (h ok v rest)
  · rfl

/-- The read loop on fewer answers than registers to go, all successes: it stops behind the calls they complete. -/
theorem readLoop_waits (n : Nat) (as : List (Bool × Word)) (rest : List Input) (s : State)
    (h : s.idx + n ≤ s.valbuf.length) (hin : s.inputs = answerInputs as ++ rest) (hok : allOk as) (hlt : as.length < n)
    (hno : NoAnswer rest) : readLoop n s = afterReads as rest s := by
  induction as generalizing n s with
  | nil =>
    obtain ⟨n, rfl⟩ := Nat.exists_eq_add_one.mpr hlt
    obtain rfl : s.inputs = rest := hin
    rw [readLoop_noAnswer hno, afterReads_nil]
  | cons p as ih =>
    obtain ⟨ok, v⟩ := p
    obtain ⟨rfl : ok = true, hmore⟩ := List.forall_mem_cons.mp hok
    obtain ⟨n, rfl⟩ := Nat.exists_eq_add_one.mpr (Nat.zero_lt_of_lt hlt)
    have hin' : s.inputs = .answer true v :: (answerInputs as ++ rest) := hin
    rw [← afterReads_cons v as rest (answerInputs as ++ rest) s (by omega),
      ← ih n _ (by simp; omega) (by simp) hmore (Nat.lt_of_succ_lt_succ hlt)]
    simp [readLoop, hin']

/-- The same of the write loop. -/
theorem writeLoop_waits (n : Nat) (as : List (Bool × Word)) (rest : List Input) (s : State)
    (h : s.idx + n ≤ s.valbuf.length) (hin : s.inputs = answerInputs as ++ rest) (hok : allOk as) (hlt : as.length < n)
    (hno : NoAnswer rest) : writeLoop n s = afterWrites as rest s := by
  induction as generalizing n s with
  | nil =>
    obtain ⟨n, rfl⟩ := Nat.exists_eq_add_one.mpr hlt
    obtain rfl : s.inputs = rest := hin
    rw [writeLoop_noAnswer hno, afterWrites_nil]
  | cons p as ih =>
    obtain ⟨ok, v⟩ := p
    obtain ⟨rfl : ok = true, hmore⟩ := List.forall_mem_cons.mp hok
    obtain ⟨n, rfl⟩ := Nat.exists_eq_add_one.mpr (Nat.zero_lt_of_lt hlt)
    have hin' : s.inputs = .answer true v :: (answerInputs as ++ rest) := hin
    rw [← afterWrites_cons v as rest (answerInputs as ++ rest) s (by omega),
      ← ih n _ (by simp; omega) (by simp) hmore (Nat.lt_of_succ_lt_succ hlt)]
    simp [writeLoop, hin']

/-! ## A request that runs out of answers -/

section
variable {s : State} {a c : Word} {k : Nat} {as : List (Bool × Word)} {more : List Input} (hsized : s.Sized)
  (hguard : c.toNat ≤ s.cfg.maxReg.val) (hin : s.inputs = answerInputs as ++ more) (hok : allOk as)
  (hlt : as.length < c.toNat) (hno : NoAnswer more)
include hsized hguard hin hok hlt hno

theorem exec_rhr_waits (st : Byte) (rest : List Byte) (hfit : s.FirstFit true a c k) :
    exec (.rhr st a c rest) s = .next (afterReads as more (s.readStart a c k)) := by
  have hval : 0 + c.toNat ≤ s.valbuf.length := by rwa [Nat.zero_add, hsized.valbuf_length]
  rw [exec_rhr_firstFit st rest hguard hfit, readLoop_waits c.toNat as more (s.readStart a c k) hval hin hok hlt hno]

theorem exec_wmr_waits (st : Byte) (rest : List Byte) (hfit : s.FirstFit false a c k) :
    exec (.wmr st a c rest) s = .next (afterWrites as more (s.writeStart a c rest k)) := by
  have hval : 0 + c.toNat ≤ (overwrite s.valbuf (s.decodedValues c rest)).length := by
    rwa [Nat.zero_add, overwrite_length, hsized.valbuf_length]
  rw [exec_wmr_firstFit st rest hguard hfit,
    writeLoop_waits c.toNat as more (s.writeStart a c rest k) hval hin hok hlt hno]

end

/-- A block whose loop has a register to go has its call on the accessor port, and is stuck if no move is left (R43,
R231). -/
theorem State.waits {s : State} (hph : s.ph = .rd ∨ s.ph = .wr) (hidx : s.idx < s.count.toNat) :
    s.busy = true ∧ s.accPort.valid = true ∧ step { s with inputs := [] } = .fault .accessorNeverAnswers := by
  have hwaiting : s.waiting = true := by
    simp only [State.waiting, Bool.and_eq_true, Bool.or_eq_true, beq_iff_eq, decide_eq_true_eq]
    exact ⟨hph, hidx⟩
  refine ⟨State.busy_iff.mpr fun hidle => ?_, hwaiting, step_stuck hwaiting rfl⟩
  rw [not_waiting_of_phase (.inl hidle)] at hwaiting
  cases hwaiting

/-- A value decoded into VALBUF is the one its write call carries (R161, R163). -/
theorem decodedValues_getElem? {s : State} (hsized : s.Sized) {c : Word} (hguard : c.toNat ≤ s.cfg.maxReg.val)
    (rest : List Byte) {i : Nat} (hi : i < c.toNat) :
    (s.decodedValues c rest)[i]? = some ((overwrite s.valbuf (s.decodedValues c rest)).getD i 0) := by
  have hlen : i < (s.decodedValues c rest).length := by rwa [State.decodedValues, payloadValues_length]
  have hval : i < s.valbuf.length := by rw [hsized.valbuf_length]; exact Nat.lt_of_lt_of_le hi hguard
  rw [List.getD_eq_getElem?_getD, overwrite_getElem?, if_pos ⟨hlen, hval⟩, List.getElem?_eq_getElem hlen]
  rfl

/-- Settles O30: the first fit's loop stops at the call behind the last answer. -/
theorem unansweredCallLeavesTheBlockWaiting : Obligations.UnansweredCallLeavesTheBlockWaiting := by
  intro s st a c rest k as more hsized hguard hin hok hlt hno
  have hidx : 0 + successes as = as.length := by rw [Nat.zero_add, successes_of_allOk hok]
  have hpending : 0 + successes as < c.toNat := hidx ▸ hlt
  refine ⟨fun hfit => ?read, fun hfit => ?write⟩
  case read =>
    obtain ⟨hbusy, hvalid, hstuck⟩ := State.waits (s := afterReads as more (s.readStart a c k)) (.inl rfl) hpending
    exact ⟨_, exec_rhr_waits hsized hguard hin hok hlt hno st rest hfit, rfl, hbusy, hvalid, rfl, rfl,
      by rw [← hidx]; rfl, by simp [afterReads, State.readStart, State.accAddr], rfl, hstuck⟩
  case write =>
    obtain ⟨hbusy, hvalid, hstuck⟩ :=
      State.waits (s := afterWrites as more (s.writeStart a c rest k)) (.inr rfl) hpending
    have hlen : (s.decodedValues c rest).length = c.toNat := payloadValues_length _ _
    have hcalls : writeCalls k a (overwrite s.valbuf (s.decodedValues c rest)) as =
        writeCalls k a (s.decodedValues c rest) as :=
      writeCalls_overwrite k a (by rwa [hlen, hsized.valbuf_length]) (hlen ▸ Nat.le_of_lt hlt)
    exact ⟨_, s.decodedValues c rest, exec_wmr_waits hsized hguard hin hok hlt hno st rest hfit, rfl, hbusy, hvalid,
      rfl, rfl, by rw [← hidx]; rfl, hlen, rfl,
      by rw [← hidx]; exact decodedValues_getElem? hsized hguard rest hpending,
      by simp [afterWrites, State.writeStart, State.accAddr, hcalls], rfl, hstuck⟩

/-! ## A waiting transaction that goes on (R43) -/

theorem step_answered {s : State} (h : s.waiting = true) {as : List (Bool × Word)} {more : List Input} (hne : as ≠ [])
    (hin : s.inputs = answerInputs as ++ more) : step s = .next (resume s) := by
  obtain ⟨p, as, rfl⟩ := List.exists_cons_of_ne_nil hne
  have hin' : s.inputs = .answer p.1 p.2 :: (answerInputs as ++ more) := hin
  simp only [step, fetch_eq_fetchInput (.inr (.inr h)), fetchInput, hin', if_pos h, runFetched]

section
variable {s : State} (h : s.Inv) {as : List (Bool × Word)} {more : List Input} (hne : as ≠ [])
  (hin : s.inputs = answerInputs as ++ more)
include h hne hin

/-- In RD the loop over the registers from IDX on is all of the step (R151). -/
theorem State.Inv.step_reading (hph : s.ph = .rd) :
    s.Looping (s.count.toNat - s.idx) ∧ step s = .next (readLoop (s.count.toNat - s.idx) s) := by
  obtain ⟨-, hserving⟩ := h.reading hph
  refine ⟨hserving.looping h.sound, ?_⟩
  rw [step_answered (hserving.waiting (.inl hph)) hne hin, resume, hph]

/-- The same in WR (R163). -/
theorem State.Inv.step_writing (hph : s.ph = .wr) :
    s.Looping (s.count.toNat - s.idx) ∧ step s = .next (writeLoop (s.count.toNat - s.idx) s) := by
  obtain ⟨-, hserving⟩ := h.writing hph
  refine ⟨hserving.looping h.sound, ?_⟩
  rw [step_answered (hserving.waiting (.inr hph)) hne hin, resume, hph]

end

/-- Settles O45: the loop takes the answers there are, from IDX on, and stops again. -/
theorem partlyAnsweredTransactionRestsAgain : Obligations.PartlyAnsweredTransactionRestsAgain := by
  intro s as more hinv hne hin hok hlt hno
  refine ⟨fun hph => ?read, fun hph => ?write⟩
  case read =>
    obtain ⟨hloop, hstep⟩ := hinv.step_reading hne hin hph
    rw [hstep, readLoop_waits _ as more s hloop.idx_le hin hok hlt hno, afterReads, successes_of_allOk hok]
  case write =>
    obtain ⟨hloop, hstep⟩ := hinv.step_writing hne hin hph
    rw [hstep, writeLoop_waits _ as more s hloop.idx_le hin hok hlt hno, afterWrites, successes_of_allOk hok]

/-! ## A waiting transaction that ends -/

/-- A loop with a register to go does not end without an answer. -/
theorem ne_nil_of_endsLoop {n : Nat} (hn : 0 < n) {as : List (Bool × Word)} (h : endsLoop n as = true) : as ≠ [] := by
  rintro rfl
  obtain ⟨n, rfl⟩ := Nat.exists_eq_add_one.mpr hn
  cases h

/-- The values below IDX are sent as VALBUF holds them before the calls. -/
theorem sentValues_afterReads_getElem?_of_lt {s : State} {i : Nat} (hi : i < s.idx) (hcount : i < s.count.toNat)
    (hval : i < s.valbuf.length) (as : List (Bool × Word)) (rest : List Input) :
    (sentValues (afterReads as rest s))[i]? = s.valbuf[i]? := by
  have hentry : (afterReads as rest s).valbuf[i]? = s.valbuf[i]? := by
    simp only [afterReads]
    rw [List.getElem?_append_left (List.length_take ▸ Nat.lt_min.mpr ⟨hi, hval⟩), List.getElem?_take_of_lt hi]
  obtain ⟨hval', -⟩ := List.getElem?_eq_some_iff.mp (hentry.trans (List.getElem?_eq_getElem hval))
  rw [← hentry]
  exact sentValues_getElem? hcount (Nat.le_add_right_of_le (Nat.le_of_lt hi)) hval'

/-- Settles O31: the loop goes on from IDX with the answers that end it, as one that started there. -/
theorem waitingTransactionResumes : Obligations.WaitingTransactionResumes := by
  intro s as more hinv hin hends
  refine ⟨fun hph => ?read, fun hph => ?write⟩
  case read =>
    have hpending := (hinv.reading hph).2.pending
    obtain ⟨hloop, hstep⟩ := hinv.step_reading (ne_nil_of_endsLoop (Nat.sub_pos_of_lt hpending) hends) hin hph
    have hval : s.count.toNat ≤ s.valbuf.length := hloop.togo ▸ hloop.idx_le
    rw [hstep, hinv.sized.readLoop_ends_eq hloop.togo hloop.guard hin hends]
    refine ⟨_, sentValues (afterReads as more s), rfl, sentValues_length _, fun i hi => ?kept, fun j p hp => ?answered,
      ?state⟩
    case kept =>
      have hcount := Nat.lt_trans hi hpending
      exact sentValues_afterReads_getElem?_of_lt hi hcount (Nat.lt_of_lt_of_le hcount hval) as more
    case answered => exact sentValues_afterReads_getElem? hloop.togo hval hends hp more
    case state => simp [afterReads, readResponseBytes, sentValues_length]
  case write =>
    have hpending := (hinv.writing hph).2.pending
    obtain ⟨hloop, hstep⟩ := hinv.step_writing (ne_nil_of_endsLoop (Nat.sub_pos_of_lt hpending) hends) hin hph
    rw [hstep, hinv.sized.writeLoop_ends_eq hloop.togo hloop.guard hin hends]
    rfl

end Sys2Proof.Machine
end
